-- ==== Sys2Proof/Word.lean ====
section
/-! DEFINITION. The word types of the archsim core: 8-bit bytes and the storage of an instruction pointer. -/

namespace Sys2Proof

/-- An 8-bit unsigned value: a general register (R21), the flags register (R27), a byte of program memory (R41). -/
abbrev Byte := BitVec 8

/-- The storage of an address of `IP_WIDTH` bits (R23). `IP_WIDTH` is 8 or 16; with 8 the upper half stays 0
(DESIGN CHOICE, safe: log 2). -/
abbrev Address := BitVec 16

end Sys2Proof
end

