-- ==== Sys2Proof/Config.lean ====
section
/-! DEFINITION. The implementation parameters of R7 (00_scope.md) and the free values. The parameters are data
that `State` carries, so every statement over states ranges over them (log 1). -/

namespace Sys2Proof

/-- `IP_WIDTH`: 8 or 16 bits (R7, R23, D1). -/
inductive IpWidth where
  | w8
  | w16
  deriving DecidableEq, Repr

/-- `2 ^ IP_WIDTH`: the first value that does not fit the instruction pointer. -/
def IpWidth.limit : IpWidth → Nat
  | .w8 => 256
  | .w16 => 65536

/-- `IP_OVERFLOW`: what happens when the advance carries out of `IP_WIDTH` bits (R7, R82, D2). -/
inductive IpOverflowPolicy where
  | fault
  | wrap
  deriving DecidableEq, Repr

/-- The parameters of R7 but for `IMAGE`, which is the contents of program memory. -/
structure Params where
  ipWidth    : IpWidth
  ipOverflow : IpOverflowPolicy
  /-- `MEM_SIZE`, the number of bytes of program memory: 0 to 65,536 (R7, R40). -/
  memSize    : Nat
  deriving DecidableEq, Repr

/-- The largest legal `MEM_SIZE` (R7, R40; 90_conflicts.md C3). -/
def Config.maxMemSize : Nat := 65536

/-- The defaults of R7 for an image: 16 bits, `fault`, and a memory as long as the image. -/
def Params.defaultFor (image : List Byte) : Params :=
  { ipWidth := .w16, ipOverflow := .fault, memSize := image.length }

/-- FREE VALUE (log 9): the ALU's result for a class that R84 marks "unused". Nothing constrains it. -/
opaque Config.unusedAluResult : Byte → Byte → Byte

/-- FREE VALUE (log 9): the ALU's compare bits g, e, l for a class that R84 marks "unused". -/
opaque Config.unusedAluCompare : Byte → Byte → Bool × Bool × Bool

end Sys2Proof
end

