-- ==== Sys2Proof/Syntax.lean ====
section
/-! DEFINITION. The closed set of 26 instructions (R62, R64 of 30_encoding.md). No instruction has an operand
field (R61): its registers are fixed by its opcode. The table's alias rows 0x19 to 0xFE are other words of DUMP
(R65, R142) and have no constructor of their own. -/

namespace Sys2Proof

/-- The three general registers (R20). -/
inductive Reg where
  | A
  | B
  | C
  deriving DecidableEq, Repr

/-- The instructions of R64, in opcode order. -/
inductive Instr where
  | nop
  | movab
  | movba
  | movac
  | movbc
  | movca
  | movcb
  | inca
  | incb
  | incc
  | cmpab
  | cmpac
  | cmpbc
  | addab
  | addac
  | addbc
  | addba
  | addca
  | addcb
  | subab
  | subac
  | subba
  | subbc
  | subca
  | subcb
  | dump
  deriving DecidableEq, Repr

end Sys2Proof
end

