-- ==== Sys2Proof/WellFormed.lean ====
section
/-! DEFINITION. Well-formedness. An instruction has no field that could be out of range (R61), so each of the 26 is
well formed; what can be ill formed is a choice of parameters (R7) and an image for it. -/

namespace Sys2Proof

/-- Every instruction is well formed: R61 gives it no operand to check. -/
def Instr.wf (_ : Instr) : Bool := true

/-- The legal values of R7: `IP_WIDTH` and `IP_OVERFLOW` are legal by their types, `MEM_SIZE` is at most 65,536. -/
def Params.wf (p : Params) : Bool := decide (p.memSize ≤ Config.maxMemSize)

/-- An image fits when its length is at most `MEM_SIZE` (R7). -/
def Params.fits (p : Params) (image : List Byte) : Bool := decide (image.length ≤ p.memSize)

end Sys2Proof
end

