-- ==== Sys2Proof/Decode.lean ====
section
/-! DEFINITION. The decoder of R62 to R65 (30_encoding.md), total on every byte, and after it the encoder. No byte is
rejected: R65 leaves no illegal and no reserved encoding. -/

namespace Sys2Proof

/-- `Decode(byte)` (R62, R64): 0x00 to 0x18 are the 25 named opcodes; every other byte, the aliases 0x19 to 0xFE and
0xFF itself, is DUMP (R65). -/
def decode (b : Byte) : Instr :=
  match b.toNat with
  | 0x00 => .nop
  | 0x01 => .movab
  | 0x02 => .movba
  | 0x03 => .movac
  | 0x04 => .movbc
  | 0x05 => .movca
  | 0x06 => .movcb
  | 0x07 => .inca
  | 0x08 => .incb
  | 0x09 => .incc
  | 0x0A => .cmpab
  | 0x0B => .cmpac
  | 0x0C => .cmpbc
  | 0x0D => .addab
  | 0x0E => .addac
  | 0x0F => .addbc
  | 0x10 => .addba
  | 0x11 => .addca
  | 0x12 => .addcb
  | 0x13 => .subab
  | 0x14 => .subac
  | 0x15 => .subba
  | 0x16 => .subbc
  | 0x17 => .subca
  | 0x18 => .subcb
  | _ => .dump

/-- The instruction at the head of a byte sequence and the rest of it: every instruction is one byte (R60, R68).
An empty sequence holds no instruction. -/
def decodeFirst : List Byte → Option (Instr × List Byte)
  | [] => none
  | b :: rest => some (decode b, rest)

/-- The opcode of R64; DUMP's own opcode is 0xFF (R141). -/
def encode : Instr → Byte
  | .nop => 0x00
  | .movab => 0x01
  | .movba => 0x02
  | .movac => 0x03
  | .movbc => 0x04
  | .movca => 0x05
  | .movcb => 0x06
  | .inca => 0x07
  | .incb => 0x08
  | .incc => 0x09
  | .cmpab => 0x0A
  | .cmpac => 0x0B
  | .cmpbc => 0x0C
  | .addab => 0x0D
  | .addac => 0x0E
  | .addbc => 0x0F
  | .addba => 0x10
  | .addca => 0x11
  | .addcb => 0x12
  | .subab => 0x13
  | .subac => 0x14
  | .subba => 0x15
  | .subbc => 0x16
  | .subca => 0x17
  | .subcb => 0x18
  | .dump => 0xFF

/-- A program written as mnemonics assembles to one opcode byte each, from address 0 (R69). -/
def assemble (program : List Instr) : List Byte := program.map encode

/-- The byte that holds an instruction whose table bits are `w`: the table numbers bit 0 as the byte's least
significant bit, and the bits above `nbits` are 0. -/
def tableByte (nbits w : Nat) : Byte := BitVec.ofNat 8 (w % 2 ^ nbits)

/-- The decoder on a word numbered as spec/opcode_table.json numbers it. -/
def decodeTableWord (nbits w : Nat) : Option Instr := some (decode (tableByte nbits w))

/-- One row of the alias space of R65: a byte `b` matches when `b & mask = bits`. -/
structure AliasRow where
  bits : Byte
  mask : Byte
  deriving DecidableEq, Repr

/-- `b & mask = match` (R65). -/
def AliasRow.matchesByte (r : AliasRow) (b : Byte) : Bool := decide (b &&& r.mask = r.bits)

/-- The twelve match/mask pairs of R65 that make up the alias space. -/
def aliasRows : List AliasRow :=
  [⟨0x19, 0xFF⟩, ⟨0x1A, 0xFE⟩, ⟨0x1C, 0xFC⟩, ⟨0x20, 0xE0⟩, ⟨0x40, 0xC0⟩, ⟨0x80, 0xC0⟩] ++
  [⟨0xC0, 0xE0⟩, ⟨0xE0, 0xF0⟩, ⟨0xF0, 0xF8⟩, ⟨0xF8, 0xFC⟩, ⟨0xFC, 0xFE⟩, ⟨0xFE, 0xFF⟩]

end Sys2Proof
end

