-- ==== Sys2Proof/Machine/State.lean ====
section
/-! DEFINITION. The state of the archsim core as plain data (R20 to R37, 10_state.md), its value at reset (R36), and
the reasons a step, a host move or a judgement can stop. -/

namespace Sys2Proof.Machine

/-- Program memory as (address, byte) pairs in one canonical form: addresses strictly rising, no entry equal to the
zero fill 0x00 that an unlisted byte reads as (R36). `Memory.wf` is that form. -/
abbrev Memory := List Host.Cell

/-- The causes of a stop (R33, R150, R151). -/
inductive StopCause where
  | fetchOutOfBounds
  | ipOverflow
  deriving DecidableEq, Repr

/-- The run state (R33). -/
inductive RunState where
  | running
  | stopped (cause : StopCause) (addr : Address)
  deriving DecidableEq, Repr

/-- The snapshot record DUMP emits, its fields in the order of R140. -/
structure DumpRecord where
  a          : Byte
  b          : Byte
  c          : Byte
  overflow   : Bool
  cmpGreater : Bool
  cmpEqual   : Bool
  cmpLess    : Bool
  ip         : Address
  deriving DecidableEq, Repr

/-- The machine's state. -/
structure State where
  /-- General register A (R20, R21). -/
  a         : Byte
  /-- General register B (R20, R21). -/
  b         : Byte
  /-- General register C (R20, R21). -/
  c         : Byte
  /-- The instruction pointer (R23); its upper half stays 0 when `IP_WIDTH` is 8 (log 2). -/
  ip        : Address
  /-- The flags register F: bit 0 C, bit 1 G, bit 2 E, bit 3 L, bits 7:4 unnamed (R27, R28). -/
  flags     : Byte
  /-- The run state (R33). -/
  run       : RunState
  /-- Program memory (R34). -/
  mem       : Memory
  /-- The parameters (R7), which no step and no host move changes (log 1). -/
  params    : Params
  /-- The level of the input `rst` (R35, R170; log 6). -/
  rst       : Bool
  /-- `dump_valid` and `dump_rec` of the last step (R35): `none` is `dump_valid = 0` (R143; log 5). -/
  dumpPort  : Option DumpRecord
  /-- The records emitted so far, oldest first: the output trace R143 recommends (log 5). -/
  dumpTrace : List DumpRecord
  deriving DecidableEq, Repr

/-- The reasons a run is judged a fault. -/
inductive Fault where
  /-- Raised by `judgedStep` of Safety.lean, the step as R156 asks a claim to read it, when the run state it reaches is
  `Stopped(IpOverflow, addr)`. `step` itself never faults: R82 and R154 give that stop a next state. Safe: the judgement
  ends a run where the core stands still (log 4). -/
  | ipOverflow (addr : Address)
  deriving DecidableEq, Repr

/-- The reasons a move is refused. -/
inductive Refusal where
  /-- Raised by an arm of `exec` whose instruction has no meaning yet; no arm does. Safe. -/
  | notModelled (mnemonic : String)
  /-- Raised by `hostMove` when the host writes program memory while `rst` is released, for which R50 and I12
  (93_implementation_defined.md) give no move. Safe (log 7). -/
  | memoryWriteWhileReleased
  /-- Raised by `hostMove` when the image is longer than `MEM_SIZE`, which R7 excludes. Safe (log 7). -/
  | imageTooLong
  deriving DecidableEq, Repr

/-- What the host can do to the block (R172). -/
inductive HostMove where
  /-- Assert `rst`. -/
  | assertRst
  /-- Release `rst`. -/
  | releaseRst
  /-- Load an image and its zero fill into program memory. -/
  | load (image : List Byte)
  /-- Assert `step` once. -/
  | step
  deriving DecidableEq, Repr

/-- The first half of a Step (R80): either the step ends without executing, or it executes the opcode it fetched in
the state whose `ip` has advanced. -/
inductive Issued where
  | halted (t : State)
  | execute (opcode : Byte) (t : State)
  deriving DecidableEq, Repr

/-- The machine right after reset (R36, R170), with the spec's default parameters for the empty image (R7, C4; log 3).
`rst` is released and the output trace is empty (DESIGN CHOICE: log 6, log 5). -/
def State.reset : State :=
  { a := 0, b := 0, c := 0, ip := 0, flags := 0, run := .running, mem := [],
    params := Params.defaultFor [], rst := false, dumpPort := none, dumpTrace := [] }

end Sys2Proof.Machine
end

