-- ==== Sys2Proof/Machine/Ops.lean ====
section
/-! DEFINITION. The named operations over memory, registers, the run state and the debug port, and the first half of
a Step (20_memory.md, 40_cycle.md, 60_exceptions.md, 70_reset_and_hazards.md). -/

namespace Sys2Proof.Machine

/-! Program memory. -/

/-- The byte at an address of the buffer; an unlisted byte is the zero fill 0x00 (R36). -/
def Memory.byte : Memory → Nat → Byte
  | [], _ => 0
  | (k, v) :: m, a => if k = a then v else Memory.byte m a

/-- One byte of the buffer replaced, the canonical form kept: writing 0x00 removes the entry. -/
def Memory.write : Memory → Nat → Byte → Memory
  | [], a, v => if v = 0 then [] else [(a, v)]
  | (k, w) :: m, a, v =>
    if a < k then (if v = 0 then (k, w) :: m else (a, v) :: (k, w) :: m)
    else if a = k then (if v = 0 then m else (a, v) :: m)
    else (k, w) :: Memory.write m a v

/-- The canonical form from an address on: addresses strictly rise and no entry is 0x00. -/
def Memory.wfFrom : Nat → Memory → Bool
  | _, [] => true
  | low, (k, v) :: m => decide (low ≤ k) && decide (v ≠ 0) && Memory.wfFrom (k + 1) m

/-- The canonical form of program memory. -/
def Memory.wf (m : Memory) : Bool := Memory.wfFrom 0 m

/-- Every listed address lies below a size. -/
def Memory.within (size : Nat) (m : Memory) : Bool := m.all fun cell => decide (cell.1 < size)

/-- An image's bytes from an address on (R44: image byte i is memory byte i), followed by the zero fill (R36). -/
def Memory.ofImageFrom : Nat → List Byte → Memory
  | _, [] => []
  | a, v :: image =>
    if v = 0 then Memory.ofImageFrom (a + 1) image else (a, v) :: Memory.ofImageFrom (a + 1) image

/-- Program memory as the host must fill it (R171): the image at address 0, then 0x00. -/
def Memory.ofImage (image : List Byte) : Memory := Memory.ofImageFrom 0 image

/-- `MemRead(addr, 1)` (R41): the byte, or nothing where the address is at or above `MEM_SIZE`. -/
def State.readByte (s : State) (a : Nat) : Option Byte :=
  if a < s.params.memSize then some (s.mem.byte a) else none

/-! Registers, flags register, instruction pointer. -/

/-- `x[r]` (R9). -/
def State.reg (s : State) : Reg → Byte
  | .A => s.a
  | .B => s.b
  | .C => s.c

/-- `x[r] <- v` (R9). -/
def State.setReg (s : State) (r : Reg) (v : Byte) : State :=
  match r with
  | .A => { s with a := v }
  | .B => { s with b := v }
  | .C => { s with c := v }

/-- `F <- v`. -/
def State.setFlags (s : State) (v : Byte) : State := { s with flags := v }

/-- `ip <- v`. -/
def State.setIp (s : State) (v : Address) : State := { s with ip := v }

/-- The advance of R82: `ip + 1`; at `2^IP_WIDTH − 1` it carries out of the register, which is 0 under `wrap` and
nothing (the stop `IpOverflow`) under `fault`. -/
def advanceIp (p : Params) (ip : Address) : Option Address :=
  if ip.toNat + 1 = p.ipWidth.limit then
    match p.ipOverflow with
    | .fault => none
    | .wrap => some 0
  else some (ip + 1)

/-! The debug port. -/

/-- `dump_valid` back to 0, as in every step but a DUMP step (R143). -/
def State.clearDump (s : State) : State := { s with dumpPort := none }

/-- `emit Dump(rec)` (R10, R140): the record stands on the debug port for this step and ends the output trace. -/
def State.emitDump (s : State) (r : DumpRecord) : State :=
  { s with dumpPort := some r, dumpTrace := s.dumpTrace ++ [r] }

/-! Stopping, and reset, which alone leaves a stop (R155). -/

/-- Stop entry (R154): `run <- Stopped(cause, ip)` and nothing else. The core's only exception entry: it saves no
state, switches no mode and transfers no control. -/
def State.stop (s : State) (cause : StopCause) : State := { s with run := .stopped cause s.ip }

/-- Reset applied (R170): A, B, C, `ip`, F, `run` and `dump_valid` at the values of R36; program memory, the
parameters and the records already emitted stand. -/
def State.applyReset (s : State) : State :=
  { s with a := 0, b := 0, c := 0, ip := 0, flags := 0, run := .running, dumpPort := none }

/-- The level of the input `rst`. -/
def State.setRst (s : State) (level : Bool) : State := { s with rst := level }

/-- Program memory replaced, by the host only (R171, R172). -/
def State.setMem (s : State) (m : Memory) : State := { s with mem := m }

/-- A core constructed for a choice of parameters and an image (R36, R171). -/
def State.boot (p : Params) (image : List Byte) : State :=
  { State.reset with mem := Memory.ofImage image, params := p }

/-! The first half of a Step. -/

/-- R80 up to the dispatch: under `rst` the core is held at reset and does not step (R170); a stopped core does
nothing (R85); the fetch fails at or above `MEM_SIZE` (R81); the advance may overflow (R82); else the opcode is
executed with `ip` advanced. `dump_valid` is 0 unless the instruction raises it (R143). -/
def State.issue (s : State) : Issued :=
  if s.rst then .halted s.applyReset
  else
    match s.run with
    | .stopped _ _ => .halted s.clearDump
    | .running =>
      match s.readByte s.ip.toNat with
      | none => .halted (s.clearDump.stop .fetchOutOfBounds)
      | some opcode =>
        match advanceIp s.params s.ip with
        | none => .halted (s.clearDump.stop .ipOverflow)
        | some ip => .execute opcode (s.clearDump.setIp ip)

/-- The byte `v` placed where the next step fetches: `rst` released, the core running, and `MEM_SIZE` large enough
to hold the address (log 3). -/
def State.placeAtIp (s : State) (v : Byte) : State :=
  { s with
    rst := false
    run := .running
    mem := s.mem.write s.ip.toNat v
    params := { s.params with memSize := max s.params.memSize (s.ip.toNat + 1) } }

end Sys2Proof.Machine
end

