-- ==== Sys2Proof/Machine/Operands.lean ====
section
/-! DEFINITION. The operand forms. They are all implicit in the opcode (R61): no operand (NOP, DUMP), one register
(INC), a destination and a source (MOV), a destination that is also the first operand and a second operand (ADD,
SUB), two registers that are only read (CMP, in Flags.lean). Operands are read before the destination is written
(R9, R174). -/

namespace Sys2Proof.Machine

/-- `x[dst] <- x[src]` (41_move.md). -/
def State.copyReg (s : State) (dst src : Reg) : State := s.setReg dst (s.reg src)

/-- `x[r] <- f(x[r])` (42_increment.md). -/
def State.updateReg (s : State) (r : Reg) (f : Byte → Byte) : State := s.setReg r (f (s.reg r))

/-- `x[x] <- f(x[x], x[y])` (44_add.md, 45_subtract.md). -/
def State.combineRegs (s : State) (x y : Reg) (f : Byte → Byte → Byte) : State :=
  s.setReg x (f (s.reg x) (s.reg y))

/-- `(X + 1) mod 256` (R84, R100). -/
def incByte (x : Byte) : Byte := BitVec.ofNat 8 (x.toNat + 1)

/-- `(X + Y) mod 256` (R84, R126). -/
def addByte (x y : Byte) : Byte := BitVec.ofNat 8 (x.toNat + y.toNat)

/-- `(X − Y) mod 256` (R84, R126), the exact difference narrowed to 8 bits. -/
def subByte (x y : Byte) : Byte := BitVec.ofInt 8 ((x.toNat : Int) - (y.toNat : Int))

end Sys2Proof.Machine
end

