-- ==== Sys2Proof/Machine/Add.lean ====
section
/-! DEFINITION. The register additions (44_add.md, R120 to R126). -/

namespace Sys2Proof.Machine

/-- ADDAB (R120): A <- (A + B) mod 256. -/
def execAddab (s : State) : Host.Outcome State Fault Refusal := .next (s.combineRegs .A .B addByte)

/-- ADDAC (R121): A <- (A + C) mod 256. -/
def execAddac (s : State) : Host.Outcome State Fault Refusal := .next (s.combineRegs .A .C addByte)

/-- ADDBC (R122): B <- (B + C) mod 256. -/
def execAddbc (s : State) : Host.Outcome State Fault Refusal := .next (s.combineRegs .B .C addByte)

/-- ADDBA (R123): B <- (B + A) mod 256. -/
def execAddba (s : State) : Host.Outcome State Fault Refusal := .next (s.combineRegs .B .A addByte)

/-- ADDCA (R124): C <- (C + A) mod 256. -/
def execAddca (s : State) : Host.Outcome State Fault Refusal := .next (s.combineRegs .C .A addByte)

/-- ADDCB (R125): C <- (C + B) mod 256. -/
def execAddcb (s : State) : Host.Outcome State Fault Refusal := .next (s.combineRegs .C .B addByte)

end Sys2Proof.Machine
end

