-- ==== Sys2Proof/Machine/Flags.lean ====
section
/-! DEFINITION. The four flags, their masks, `SetFlag` and the compare rule (R27 to R31 of 10_state.md, R110 of
43_compare.md). -/

namespace Sys2Proof.Machine

/-- The flags of R27: carry/overflow, greater, equal, less. -/
inductive Flag where
  | C
  | G
  | E
  | L
  deriving DecidableEq, Repr

/-- `m(f)`: the single-bit masks of R27. -/
def Flag.mask : Flag → Byte
  | .C => 0x01
  | .G => 0x02
  | .E => 0x04
  | .L => 0x08

/-- The bit of `F` each flag is (R27). -/
def Flag.bit : Flag → Nat
  | .C => 0
  | .G => 1
  | .E => 2
  | .L => 3

/-- Whether a flag is set in a value of `F`. -/
def flagOf (f : Flag) (F : Byte) : Bool := decide (F &&& f.mask ≠ 0)

/-- `SetFlag(f, v)` (R30): set or clear one bit, never toggle. -/
def setFlag (f : Flag) (v : Bool) (F : Byte) : Byte :=
  if v then F ||| f.mask else F &&& ~~~f.mask

/-- The three writes of R110 to `F` for unsigned operands `X`, `Y`. -/
def compareFlags (X Y F : Byte) : Byte :=
  setFlag .L (decide (X.toNat < Y.toNat))
    (setFlag .E (decide (X.toNat = Y.toNat))
      (setFlag .G (decide (X.toNat > Y.toNat)) F))

/-- `CMPpq` (R110): G, E and L from the unsigned compare of `x[p]` against `x[q]`; no register is written. -/
def State.compareRegs (s : State) (p q : Reg) : State :=
  s.setFlags (compareFlags (s.reg p) (s.reg q) s.flags)

/-- The snapshot of R140. -/
def State.snapshot (s : State) : DumpRecord :=
  { a := s.a, b := s.b, c := s.c, overflow := flagOf .C s.flags, cmpGreater := flagOf .G s.flags,
    cmpEqual := flagOf .E s.flags, cmpLess := flagOf .L s.flags, ip := s.ip }

end Sys2Proof.Machine
end

