-- ==== Sys2Proof/Machine/Compare.lean ====
section
/-! DEFINITION. The register compares (43_compare.md, R110 to R114). -/

namespace Sys2Proof.Machine

/-- CMPAB (R111): R110 with p = A, q = B. -/
def execCmpab (s : State) : Host.Outcome State Fault Refusal := .next (s.compareRegs .A .B)

/-- CMPAC (R112): R110 with p = A, q = C. -/
def execCmpac (s : State) : Host.Outcome State Fault Refusal := .next (s.compareRegs .A .C)

/-- CMPBC (R113): R110 with p = B, q = C. -/
def execCmpbc (s : State) : Host.Outcome State Fault Refusal := .next (s.compareRegs .B .C)

end Sys2Proof.Machine
end

