-- ==== Sys2Proof/Machine/Dump.lean ====
section
/-! DEFINITION. DUMP and its alias opcodes (46_dump.md, R140 to R143). -/

namespace Sys2Proof.Machine

/-- DUMP (R141, and R142 for an alias byte): emit the snapshot record; no state mutation. -/
def execDump (s : State) : Host.Outcome State Fault Refusal := .next (s.emitDump s.snapshot)

end Sys2Proof.Machine
end

