-- ==== Sys2Proof/Machine/Increment.lean ====
section
/-! DEFINITION. The register increments (42_increment.md, R100 to R103). -/

namespace Sys2Proof.Machine

/-- INCA (R100): A <- (A + 1) mod 256. -/
def execInca (s : State) : Host.Outcome State Fault Refusal := .next (s.updateReg .A incByte)

/-- INCB (R101): B <- (B + 1) mod 256. -/
def execIncb (s : State) : Host.Outcome State Fault Refusal := .next (s.updateReg .B incByte)

/-- INCC (R102): C <- (C + 1) mod 256. -/
def execIncc (s : State) : Host.Outcome State Fault Refusal := .next (s.updateReg .C incByte)

end Sys2Proof.Machine
end

