-- ==== Sys2Proof/Machine/Move.lean ====
section
/-! DEFINITION. NOP and the register moves (41_move.md, R90 to R96). -/

namespace Sys2Proof.Machine

/-- NOP (R90): no effect of its own. -/
def execNop (s : State) : Host.Outcome State Fault Refusal := .next s

/-- MOVAB (R91): A <- B. -/
def execMovab (s : State) : Host.Outcome State Fault Refusal := .next (s.copyReg .A .B)

/-- MOVBA (R92): B <- A. -/
def execMovba (s : State) : Host.Outcome State Fault Refusal := .next (s.copyReg .B .A)

/-- MOVAC (R93): A <- C. -/
def execMovac (s : State) : Host.Outcome State Fault Refusal := .next (s.copyReg .A .C)

/-- MOVBC (R94): B <- C. -/
def execMovbc (s : State) : Host.Outcome State Fault Refusal := .next (s.copyReg .B .C)

/-- MOVCA (R95): C <- A. -/
def execMovca (s : State) : Host.Outcome State Fault Refusal := .next (s.copyReg .C .A)

/-- MOVCB (R96): C <- B. -/
def execMovcb (s : State) : Host.Outcome State Fault Refusal := .next (s.copyReg .C .B)

end Sys2Proof.Machine
end

