-- ==== Sys2Proof/Machine/Subtract.lean ====
section
/-! DEFINITION. The register subtractions (45_subtract.md, R130 to R136). -/

namespace Sys2Proof.Machine

/-- SUBAB (R130): A <- (A - B) mod 256. -/
def execSubab (s : State) : Host.Outcome State Fault Refusal := .next (s.combineRegs .A .B subByte)

/-- SUBAC (R131): A <- (A - C) mod 256. -/
def execSubac (s : State) : Host.Outcome State Fault Refusal := .next (s.combineRegs .A .C subByte)

/-- SUBBA (R132): B <- (B - A) mod 256. -/
def execSubba (s : State) : Host.Outcome State Fault Refusal := .next (s.combineRegs .B .A subByte)

/-- SUBBC (R133): B <- (B - C) mod 256. -/
def execSubbc (s : State) : Host.Outcome State Fault Refusal := .next (s.combineRegs .B .C subByte)

/-- SUBCA (R134): C <- (C - A) mod 256. -/
def execSubca (s : State) : Host.Outcome State Fault Refusal := .next (s.combineRegs .C .A subByte)

/-- SUBCB (R135): C <- (C - B) mod 256. -/
def execSubcb (s : State) : Host.Outcome State Fault Refusal := .next (s.combineRegs .C .B subByte)

end Sys2Proof.Machine
end

