-- ==== Sys2Proof/Machine/Dispatch.lean ====
section
/-! DEFINITION. The dispatch: one arm per instruction (40_cycle.md R80, R83). -/

namespace Sys2Proof.Machine

def exec (i : Instr) (s : State) : Host.Outcome State Fault Refusal :=
  match i with
  | .nop => Sys2Proof.Machine.execNop s
  | .movab => Sys2Proof.Machine.execMovab s
  | .movba => Sys2Proof.Machine.execMovba s
  | .movac => Sys2Proof.Machine.execMovac s
  | .movbc => Sys2Proof.Machine.execMovbc s
  | .movca => Sys2Proof.Machine.execMovca s
  | .movcb => Sys2Proof.Machine.execMovcb s
  | .inca => Sys2Proof.Machine.execInca s
  | .incb => Sys2Proof.Machine.execIncb s
  | .incc => Sys2Proof.Machine.execIncc s
  | .cmpab => Sys2Proof.Machine.execCmpab s
  | .cmpac => Sys2Proof.Machine.execCmpac s
  | .cmpbc => Sys2Proof.Machine.execCmpbc s
  | .addab => Sys2Proof.Machine.execAddab s
  | .addac => Sys2Proof.Machine.execAddac s
  | .addbc => Sys2Proof.Machine.execAddbc s
  | .addba => Sys2Proof.Machine.execAddba s
  | .addca => Sys2Proof.Machine.execAddca s
  | .addcb => Sys2Proof.Machine.execAddcb s
  | .subab => Sys2Proof.Machine.execSubab s
  | .subac => Sys2Proof.Machine.execSubac s
  | .subba => Sys2Proof.Machine.execSubba s
  | .subbc => Sys2Proof.Machine.execSubbc s
  | .subca => Sys2Proof.Machine.execSubca s
  | .subcb => Sys2Proof.Machine.execSubcb s
  | .dump => Sys2Proof.Machine.execDump s

end Sys2Proof.Machine
end

