-- ==== Sys2Proof/Machine/Step.lean ====
section
/-! DEFINITION. One Step (R80 of 40_cycle.md), and how an instruction is placed where the next step fetches it. -/

namespace Sys2Proof.Machine

/-- One assertion of the `step` port (R80): fetch and advance, then decode and execute. -/
def step (s : State) : Host.Outcome State Fault Refusal :=
  match s.issue with
  | .halted t => .next t
  | .execute opcode t => exec (decode opcode) t

/-- `s` with the instruction whose table bits are `w` stored at `ip`, so that the next step fetches and runs it (log 3).
At `ip = 2^IP_WIDTH − 1` under `IP_OVERFLOW = fault` no instruction can run (R82), and the step stops. -/
def State.withFetchWord (s : State) (nbits w : Nat) : State := s.placeAtIp (tableByte nbits w)

end Sys2Proof.Machine
end

