-- ==== Sys2Proof/Machine/Datapath.lean ====
section
/-! DEFINITION. The opcode ROM's control word (R66, R67 of 30_encoding.md) and the datapath that executes it (R80, R83,
R84 of 40_cycle.md), written beside the family rules, which govern where the two differ (R66). Nothing of `step`
depends on this file: that the two agree is a statement. -/

namespace Sys2Proof.Machine

/-- The `cls` field of R66; its code 7 is never produced. -/
inductive AluClass where
  | nop
  | mov
  | inc
  | cmp
  | add
  | sub
  | dump
  deriving DecidableEq, Repr

/-- A control word by its fields (R66); `none` is register code 3. -/
structure ControlWord where
  cls    : AluClass
  rx     : Option Reg
  ry     : Option Reg
  regWe  : Bool
  flagWe : Bool
  dump   : Bool
  deriving DecidableEq, Repr

/-- The code of a class (R66). -/
def AluClass.code : AluClass → BitVec 3
  | .nop => 0
  | .mov => 1
  | .inc => 2
  | .cmp => 3
  | .add => 4
  | .sub => 5
  | .dump => 6

/-- The code of a register field (R66). -/
def regCode : Option Reg → BitVec 2
  | some .A => 0
  | some .B => 1
  | some .C => 2
  | none => 3

/-- The 10 bits of R66, `dump` in bit 9 down to `cls` in bits 2:0. -/
def ControlWord.bits (w : ControlWord) : BitVec 10 :=
  BitVec.ofBool w.dump ++ BitVec.ofBool w.flagWe ++ BitVec.ofBool w.regWe ++ regCode w.ry ++ regCode w.rx ++ w.cls.code

/-- The control word of an instruction that writes register `x` (R67). -/
def writingWord (cls : AluClass) (x : Reg) (y : Option Reg) : ControlWord :=
  { cls := cls, rx := some x, ry := y, regWe := true, flagWe := false, dump := false }

/-- The control word of a compare (R67). -/
def comparingWord (p q : Reg) : ControlWord :=
  { cls := .cmp, rx := some p, ry := some q, regWe := false, flagWe := true, dump := false }

/-- The control word of NOP (R67). -/
def nopWord : ControlWord :=
  { cls := .nop, rx := none, ry := none, regWe := false, flagWe := false, dump := false }

/-- The control word of DUMP and of its aliases (R67). -/
def dumpWord : ControlWord :=
  { cls := .dump, rx := none, ry := none, regWe := false, flagWe := false, dump := true }

/-- The opcode ROM by byte value (R67). -/
def rom (b : Byte) : ControlWord :=
  match b.toNat with
  | 0x00 => nopWord
  | 0x01 => writingWord .mov .A (some .B)
  | 0x02 => writingWord .mov .B (some .A)
  | 0x03 => writingWord .mov .A (some .C)
  | 0x04 => writingWord .mov .B (some .C)
  | 0x05 => writingWord .mov .C (some .A)
  | 0x06 => writingWord .mov .C (some .B)
  | 0x07 => writingWord .inc .A none
  | 0x08 => writingWord .inc .B none
  | 0x09 => writingWord .inc .C none
  | 0x0A => comparingWord .A .B
  | 0x0B => comparingWord .A .C
  | 0x0C => comparingWord .B .C
  | 0x0D => writingWord .add .A (some .B)
  | 0x0E => writingWord .add .A (some .C)
  | 0x0F => writingWord .add .B (some .C)
  | 0x10 => writingWord .add .B (some .A)
  | 0x11 => writingWord .add .C (some .A)
  | 0x12 => writingWord .add .C (some .B)
  | 0x13 => writingWord .sub .A (some .B)
  | 0x14 => writingWord .sub .A (some .C)
  | 0x15 => writingWord .sub .B (some .A)
  | 0x16 => writingWord .sub .B (some .C)
  | 0x17 => writingWord .sub .C (some .A)
  | 0x18 => writingWord .sub .C (some .B)
  | _ => dumpWord

/-- What the ALU returns: R and the compare bits g, e, l (R84). -/
structure AluOut where
  r : Byte
  g : Bool
  e : Bool
  l : Bool
  deriving DecidableEq, Repr

/-- A result with the compare bits R84 leaves unused (free values, log 9). -/
def resultOnly (r X Y : Byte) : AluOut :=
  let free := Config.unusedAluCompare X Y
  { r := r, g := free.1, e := free.2.1, l := free.2.2 }

/-- The ALU (R84). -/
def alu (cls : AluClass) (X Y : Byte) : AluOut :=
  match cls with
  | .nop => resultOnly (Config.unusedAluResult X Y) X Y
  | .mov => resultOnly Y X Y
  | .inc => resultOnly (BitVec.ofNat 8 ((X.toNat + 1) % 256)) X Y
  | .cmp => { r := Config.unusedAluResult X Y, g := decide (X.toNat > Y.toNat), e := decide (X.toNat = Y.toNat),
              l := decide (X.toNat < Y.toNat) }
  | .add => resultOnly (BitVec.ofNat 8 ((X.toNat + Y.toNat) % 256)) X Y
  | .sub => resultOnly (BitVec.ofInt 8 (((X.toNat : Int) - (Y.toNat : Int)) % 256)) X Y
  | .dump => resultOnly (Config.unusedAluResult X Y) X Y

/-- A read port of the register file: 0 when no register is named (R83). -/
def State.readPort (s : State) : Option Reg → Byte
  | some r => s.reg r
  | none => 0

/-- The write port of the register file, enabled by `reg_we` (R83). -/
def State.writePort (s : State) (enable : Bool) (rx : Option Reg) (v : Byte) : State :=
  match enable, rx with
  | true, some r => s.setReg r v
  | true, none => s
  | false, _ => s

/-- `Execute(cw)` (R83). The record of a DUMP is taken from the state before the writes. -/
def execute (cw : ControlWord) (s : State) : State :=
  let X := s.readPort cw.rx
  let Y := s.readPort cw.ry
  let out := alu cw.cls X Y
  let written := s.writePort cw.regWe cw.rx out.r
  let flagged :=
    if cw.flagWe then
      written.setFlags (setFlag .L out.l (setFlag .E out.e (setFlag .G out.g written.flags)))
    else written
  if cw.dump then flagged.emitDump s.snapshot else flagged

/-- `Step()` as R80 writes it, over the opcode ROM and the datapath; R170 holds the core at reset under `rst`, and R143
puts `dump_valid` at 0. -/
def romStep (s : State) : State :=
  if s.rst = true then s.applyReset
  else if s.run ≠ .running then s.clearDump
  else if s.ip.toNat ≥ s.params.memSize then
    s.clearDump.stop .fetchOutOfBounds
  else if s.ip.toNat = s.params.ipWidth.limit - 1 then
    if s.params.ipOverflow = .fault then s.clearDump.stop .ipOverflow
    else execute (rom (s.mem.byte s.ip.toNat)) (s.clearDump.setIp 0)
  else execute (rom (s.mem.byte s.ip.toNat)) (s.clearDump.setIp (s.ip + 1))

end Sys2Proof.Machine
end

