-- ==== Sys2Proof/Machine/HostPort.lean ====
section
/-! DEFINITION. The block's outputs (R35 of 10_state.md) and the host's moves (R171, R172 of 70_reset_and_hazards.md). -/

namespace Sys2Proof.Machine

/-- `fetch_addr`: equal to `ip` (R35). -/
def State.fetchAddr (s : State) : Address := s.ip

/-- `fetch_oob`: 1 when `fetch_addr ≥ MEM_SIZE` (R35). -/
def State.fetchOob (s : State) : Bool := decide (s.fetchAddr.toNat ≥ s.params.memSize)

/-- `fetch_data`: the byte memory returns for `fetch_addr`; no byte while `fetch_oob` is 1, where R35 calls it
meaningless (log 8). -/
def State.fetchData (s : State) : Option Byte := s.readByte s.fetchAddr.toNat

/-- `dump_valid` (R35, R143). -/
def State.dumpValid (s : State) : Bool := s.dumpPort.isSome

/-- `dump_rec` (R35, R140); no record while `dump_valid` is 0 (log 8). -/
def State.dumpRec (s : State) : Option DumpRecord := s.dumpPort

/-- `stopped`: 1 when `run ≠ Running` (R35). -/
def State.isStopped (s : State) : Bool := decide (s.run ≠ .running)

/-- The code of a cause on `stop_cause`: 0 and 1 (R150, R151). -/
def StopCause.code : StopCause → Nat
  | .fetchOutOfBounds => 0
  | .ipOverflow => 1

/-- `stop_cause`: the cause code of `Stopped` (R35); none while running (log 8). -/
def State.stopCause (s : State) : Option Nat :=
  match s.run with
  | .running => none
  | .stopped cause _ => some cause.code

/-- `stop_addr`: the address of `Stopped` (R35); none while running (log 8). -/
def State.stopAddr (s : State) : Option Address :=
  match s.run with
  | .running => none
  | .stopped _ addr => some addr

/-- One move of the host (R172). Asserting `rst` applies reset at once, and `rst` stays asserted until released (R170).
Loading fills program memory with the image and its zero fill (R171), under `rst` only (R50). -/
def hostMove (m : HostMove) (s : State) : Host.Outcome State Fault Refusal :=
  match m with
  | .assertRst => .next (s.applyReset.setRst true)
  | .releaseRst => .next (s.setRst false)
  | .load image =>
    if s.rst then
      if s.params.fits image then .next (s.setMem (Memory.ofImage image)) else .refused .imageTooLong
    else .refused .memoryWriteWhileReleased
  | .step => step s

end Sys2Proof.Machine
end

