-- ==== Sys2Proof/Safety.lean ====
section
/-! DEFINITION. The terms claims use: what ends a run and what is a fault (R156 of 60_exceptions.md), the invariant of
the machine, and the shape of an instruction's rule (what it changes, and that it changes nothing else). -/

namespace Sys2Proof.Machine

/-! The end of a run (R156, D19). -/

/-- The normal end of a run: the core has stopped at a fetch out of bounds (R156). -/
def State.ended (s : State) : Bool :=
  match s.run with
  | .stopped .fetchOutOfBounds _ => true
  | _ => false

/-- A step as R156 asks a claim to read it: `Stopped(IpOverflow, addr)` is a fault and no end, every other state of the
core stands as `step` leaves it. -/
def judgedStep (s : State) : Host.Outcome State Fault Refusal :=
  match step s with
  | .next t =>
    match t.run with
    | .stopped .ipOverflow addr => .fault (.ipOverflow addr)
    | .stopped .fetchOutOfBounds _ => .next t
    | .running => .next t
  | .fault r => .fault r
  | .refused r => .refused r

/-- The same instruction's meaning `n` times in a row. -/
def execTimes (i : Instr) : Nat → State → Host.Outcome State Fault Refusal
  | 0, s => .next s
  | n + 1, s =>
    match exec i s with
    | .next t => execTimes i n t
    | .fault r => .fault r
    | .refused r => .refused r

/-! The invariant. -/

/-- What a stopped core looks like (R81, R82, R143, R154): the recorded address is `ip`, `dump_valid` is 0, and the
cause is the one that holds at that address. -/
def State.stopLegal (s : State) : Prop :=
  match s.run with
  | .running => True
  | .stopped cause addr =>
    addr = s.ip ∧ s.dumpPort = none ∧
      match cause with
      | .fetchOutOfBounds => s.params.memSize ≤ s.ip.toNat
      | .ipOverflow =>
        s.ip.toNat < s.params.memSize ∧ s.ip.toNat + 1 = s.params.ipWidth.limit ∧ s.params.ipOverflow = .fault

/-- A record a core can emit: Overflow is false (R31), at most one compare flag is set (R114), and its IP fits
`IP_WIDTH` bits (R140). -/
def DumpRecord.legal (p : Params) (r : DumpRecord) : Prop :=
  r.overflow = false ∧ ¬(r.cmpGreater = true ∧ r.cmpEqual = true) ∧ ¬(r.cmpGreater = true ∧ r.cmpLess = true) ∧
    ¬(r.cmpEqual = true ∧ r.cmpLess = true) ∧ r.ip.toNat < p.ipWidth.limit

/-- The states the rules allow: legal parameters (R7), program memory in canonical form and inside `MEM_SIZE` (R34), `ip`
within `IP_WIDTH` bits (R23), F one of the four values a running core holds (R28, R31, R114), a legal stop, the record on
the debug port the last of the trace (R143), and every record legal. -/
structure State.Inv (s : State) : Prop where
  params_legal  : s.params.wf = true
  mem_canonical : s.mem.wf = true
  mem_within    : s.mem.within s.params.memSize = true
  ip_fits       : s.ip.toNat < s.params.ipWidth.limit
  flags_legal   : s.flags = 0x00 ∨ s.flags = 0x02 ∨ s.flags = 0x04 ∨ s.flags = 0x08
  stop_legal    : s.stopLegal
  port_last     : ∀ r, s.dumpPort = some r → s.dumpTrace.getLast? = some r
  trace_legal   : ∀ r ∈ s.dumpTrace, r.legal s.params

/-! The shape of an instruction's rule. -/

/-- `t` has the run state, the parameters, the `rst` level and every byte of program memory of `s`. -/
def Untouched (s t : State) : Prop :=
  t.run = s.run ∧ t.params = s.params ∧ t.rst = s.rst ∧ ∀ a, t.readByte a = s.readByte a

/-- Register `r` of `t` holds the value `v`, and every other register, all of F, the output trace and what `Untouched`
names are as in `s`. -/
def RegWritten (r : Reg) (v : Int) (s t : State) : Prop :=
  ((t.reg r).toNat : Int) = v ∧ (∀ q, q ≠ r → t.reg q = s.reg q) ∧ t.flags = s.flags ∧
    t.dumpTrace = s.dumpTrace ∧ Untouched s t

/-- F of `t` is F of `s` with G, E and L (bits 1, 2, 3) written from the unsigned compare of `p` against `q`; bit 0, bits
7:4, every register, the output trace and what `Untouched` names are as in `s`. -/
def Compared (p q : Reg) (s t : State) : Prop :=
  t.flags.getLsbD 1 = decide ((s.reg p).toNat > (s.reg q).toNat) ∧
    t.flags.getLsbD 2 = decide ((s.reg p).toNat = (s.reg q).toNat) ∧
    t.flags.getLsbD 3 = decide ((s.reg p).toNat < (s.reg q).toNat) ∧
    (∀ k, k ≠ 1 → k ≠ 2 → k ≠ 3 → t.flags.getLsbD k = s.flags.getLsbD k) ∧
    (∀ r, t.reg r = s.reg r) ∧ t.dumpTrace = s.dumpTrace ∧ Untouched s t

/-- Every register, F, the output trace and what `Untouched` names are as in `s`. -/
def NothingWritten (s t : State) : Prop :=
  (∀ r, t.reg r = s.reg r) ∧ t.flags = s.flags ∧ t.dumpTrace = s.dumpTrace ∧ Untouched s t

/-- The next step of a running core fetches `opcode` and its advance stays below `2^IP_WIDTH`. -/
def Ready (s : State) (opcode : Byte) : Prop :=
  s.rst = false ∧ s.run = .running ∧ s.readByte s.ip.toNat = some opcode ∧
    s.ip.toNat + 1 < s.params.ipWidth.limit

/-- The rule of an instruction that emits no record: its opcode both ways, its control word, its meaning in every
state, and the step that fetches it, which moves `ip` on by 1 and leaves `dump_valid` 0. -/
def RunsAs (i : Instr) (opcode : Byte) (controlWord : BitVec 10) (effect : State → State → Prop) : Prop :=
  decode opcode = i ∧ encode i = opcode ∧ (rom opcode).bits = controlWord ∧
    (∀ s, ∃ t, exec i s = .next t ∧ effect s t ∧ t.ip = s.ip ∧ t.dumpPort = s.dumpPort) ∧
    (∀ s, Ready s opcode →
      ∃ t, step s = .next t ∧ effect s t ∧ t.ip.toNat = s.ip.toNat + 1 ∧ t.dumpPort = none)

/-- `t` is `s` after a DUMP (R140, R141): one record of `s`'s registers and flags with the instruction pointer `ip` stands
on the debug port and ends the output trace, `t`'s instruction pointer is `ip`, and nothing else is written. -/
def Emitted (ip : Address) (s t : State) : Prop :=
  let record : DumpRecord :=
    { a := s.a, b := s.b, c := s.c, overflow := s.flags.getLsbD 0, cmpGreater := s.flags.getLsbD 1,
      cmpEqual := s.flags.getLsbD 2, cmpLess := s.flags.getLsbD 3, ip := ip }
  t.dumpPort = some record ∧ t.dumpTrace = s.dumpTrace ++ [record] ∧ t.ip = ip ∧
    (∀ r, t.reg r = s.reg r) ∧ t.flags = s.flags ∧ Untouched s t

/-- The register's contents as an unsigned 8-bit value (R21). -/
def valueOf (r : Reg) (s : State) : Int := ((s.reg r).toNat : Int)

/-- The register's contents read as an 8-bit two's-complement value. -/
def signedValueOf (r : Reg) (s : State) : Int := (s.reg r).toInt

/-- The table of R22, column "written by". -/
def writersOf : Reg → List Instr
  | .A => [.movab, .movac, .inca, .addab, .addac, .subab, .subac]
  | .B => [.movba, .movbc, .incb, .addbc, .addba, .subba, .subbc]
  | .C => [.movca, .movcb, .incc, .addca, .addcb, .subca, .subcb]

/-- The table of R22, column "read by". -/
def readersOf : Reg → List Instr
  | .A => [.movba, .movca, .inca, .cmpab, .cmpac, .addab, .addac, .addba, .addca, .subab, .subac, .subba, .subca, .dump]
  | .B => [.movab, .movcb, .incb, .cmpab, .cmpbc, .addab, .addbc, .addba, .addcb, .subab, .subba, .subbc, .subcb, .dump]
  | .C => [.movac, .movbc, .incc, .cmpac, .cmpbc, .addac, .addbc, .addca, .addcb, .subac, .subbc, .subca, .subcb, .dump]

/-- The six additions with their registers (R120 to R125). -/
def additions : List (Instr × Reg × Reg) :=
  [(.addab, .A, .B), (.addac, .A, .C), (.addbc, .B, .C), (.addba, .B, .A), (.addca, .C, .A), (.addcb, .C, .B)]

/-- The six subtractions with their registers (R130 to R135). -/
def subtractions : List (Instr × Reg × Reg) :=
  [(.subab, .A, .B), (.subac, .A, .C), (.subba, .B, .A), (.subbc, .B, .C), (.subca, .C, .A), (.subcb, .C, .B)]

/-- The three increments with their registers (R100 to R102). -/
def increments : List (Instr × Reg) := [(.inca, .A), (.incb, .B), (.incc, .C)]

/-- The three compares, which alone write flags (R29). -/
def compares : List Instr := [.cmpab, .cmpac, .cmpbc]

end Sys2Proof.Machine
end

