-- ==== Sys2Proof/Certificates/Slice0/Obligations.lean ====
section
/-! DEFINITION. The statements for the provers. Each docstring names the rules of spec/ it formalises; a clause that rests on
a choice of the model says so and names the log entry. -/

open Sys2Proof Sys2Proof.Machine

/-! State and reset. -/

/-- R36: the reset value of every piece of state, for every choice of parameters and every image that fits. The zero fill, the
run state and `dump_valid` are the spec's own decisions D3, D8 and D10. -/
def Obligations.BootStateIsResetState : Prop :=
  ∀ (p : Params) (image : List Byte), p.fits image = true →
    let s := State.boot p image
    s.a = 0x00 ∧ s.b = 0x00 ∧ s.c = 0x00 ∧ s.ip = 0 ∧ s.flags = 0x00 ∧ s.run = .running ∧ s.dumpValid = false ∧
      (∀ k v, image[k]? = some v → s.readByte k = some v) ∧
      (∀ k, image.length ≤ k → k < p.memSize → s.readByte k = some 0x00)

/-- The model's reset state is the core of R36 for the empty image under the default parameters of R7: that the image is empty is
the model's choice (log 3), and so are the released `rst` (log 6) and the empty trace (log 5). -/
def Obligations.ResetStateIsTheEmptyBoot : Prop :=
  State.reset = State.boot (Params.defaultFor []) [] ∧ State.reset.params = ⟨.w16, .fault, 0⟩ ∧
    State.reset.rst = false ∧ State.reset.dumpTrace = []

/-- R170 (the spec's own decision D15): what reset sets in every state, stopped or not, and what it leaves. That a step of a core
under `rst` applies that reset again is the model's choice (log 6). -/
def Obligations.ResetSetsEveryRegister : Prop :=
  (∀ s : State, let t := s.applyReset
    t.a = 0x00 ∧ t.b = 0x00 ∧ t.c = 0x00 ∧ t.ip = 0 ∧ t.flags = 0x00 ∧ t.run = .running ∧ t.dumpValid = false ∧
      t.params = s.params ∧ ∀ a, t.readByte a = s.readByte a) ∧
  (∀ s : State, s.rst = true → step s = .next s.applyReset)

/-- R155: no step leaves a stop or changes which stop it is, unless the core is under reset. -/
def Obligations.OnlyResetLeavesAStop : Prop :=
  (∀ s t, s.run ≠ .running → step s = .next t → t.run = .running → s.rst = true) ∧
  (∀ (s : State) cause addr, s.rst = false → s.run = .stopped cause addr →
    ∃ t, step s = .next t ∧ t.run = .stopped cause addr)

/-- The host's assertion of `rst` (R170, R172) resets the core at once and holds `rst`, and no other move of the host but a step
under `rst` leaves a stop: the moves and that the assertion acts at once are the model's choice (log 6). -/
def Obligations.AssertingRstResetsTheCore : Prop :=
  (∀ s, hostMove .assertRst s = .next (s.applyReset.setRst true)) ∧
  (∀ m s t, s.run ≠ .running → hostMove m s = .next t → t.run = .running →
    m = .assertRst ∨ (m = .step ∧ s.rst = true))

/-- R172 (the spec's own decisions D10, D15, D18): a host move other than reset and a step leaves A, B, C, F, `ip` and everything else of the core; loading writes
program memory, under `rst` only (the refusals are the model's, log 7); `step` is one Step. -/
def Obligations.HostChangesRegistersOnlyByReset : Prop :=
  (∀ m s t, m ≠ .assertRst → m ≠ .step → hostMove m s = .next t →
    (∀ r, t.reg r = s.reg r) ∧ t.flags = s.flags ∧ t.ip = s.ip ∧ t.run = s.run ∧ t.params = s.params ∧
      t.dumpPort = s.dumpPort ∧ t.dumpTrace = s.dumpTrace) ∧
  (∀ s image, s.rst = true → s.params.fits image = true → ∃ t, hostMove (.load image) s = .next t ∧ t.rst = true ∧
    (∀ k v, image[k]? = some v → t.readByte k = some v) ∧
    (∀ k, image.length ≤ k → k < s.params.memSize → t.readByte k = some 0x00)) ∧
  (∀ s image, s.rst = false → hostMove (.load image) s = .refused .memoryWriteWhileReleased) ∧
  (∀ s, ∃ t, hostMove .releaseRst s = .next t ∧ t.rst = false ∧ ∀ a, t.readByte a = s.readByte a) ∧
  (∀ s, hostMove .step s = step s)

/-- The outputs of R35 in terms of the state. That an output without a meaning has no value is the model's choice (log 8). -/
def Obligations.OutputsShowTheState : Prop :=
  ∀ s : State,
    s.fetchAddr = s.ip ∧ (s.fetchOob = true ↔ s.params.memSize ≤ s.ip.toNat) ∧
    (s.fetchOob = false → s.fetchData = some (s.mem.byte s.ip.toNat)) ∧
    (s.fetchOob = true → s.fetchData = none) ∧
    (s.dumpValid = true ↔ ∃ r, s.dumpRec = some r) ∧
    (s.isStopped = true ↔ s.run ≠ .running) ∧
    (∀ cause addr, s.run = .stopped cause addr →
      s.stopAddr = some addr ∧ (cause = .fetchOutOfBounds → s.stopCause = some 0) ∧
        (cause = .ipOverflow → s.stopCause = some 1)) ∧
    (s.run = .running → s.stopAddr = none ∧ s.stopCause = none)

/-! Program memory. -/

/-- R41: `MemRead(addr, 1)` with the stop it raises, that a read gives the same byte after every step, and that the fetch at
`ip` is a step's only access: a step does the same over any memory that agrees at `ip`. -/
def Obligations.FetchIsTheOnlyMemoryAccess : Prop :=
  (∀ (s : State) a, s.params.memSize ≤ a → s.readByte a = none) ∧
  (∀ (s : State) a, a < s.params.memSize → s.readByte a = some (s.mem.byte a)) ∧
  (∀ s : State, s.rst = false → s.run = .running → s.readByte s.ip.toNat = none →
    ∃ t, step s = .next t ∧ t.run = .stopped .fetchOutOfBounds s.ip) ∧
  (∀ s t, step s = .next t → ∀ a, t.readByte a = s.readByte a) ∧
  (∀ (s : State) m, (s.setMem m).readByte s.ip.toNat = s.readByte s.ip.toNat →
    ∃ t, step s = .next t ∧ step (s.setMem m) = .next (t.setMem m))

/-- R43, R50 (the spec's own derivation and decision D18): no instruction, no step and no run writes program memory, so every
fetch sees the bytes loaded at reset. -/
def Obligations.ProgramMemoryIsReadOnlyWhileRunning : Prop :=
  (∀ i s t, exec i s = .next t → ∀ a, t.readByte a = s.readByte a) ∧
  (∀ s t, step s = .next t → ∀ a, t.readByte a = s.readByte a) ∧
  (∀ n (s t : State), core.run n s = .next t → ∀ a, t.readByte a = s.readByte a)

/-- R42 (the spec's own derivation): an address is fetched only below both `MEM_SIZE` and `2^IP_WIDTH`, bytes at or above `2^IP_WIDTH` never matter to
a run, and every address below both is reached by some run. -/
def Obligations.ReachableAddressesLieBelowBothLimits : Prop :=
  (∀ (s : State) opcode t, s.Inv → s.issue = .execute opcode t →
    s.ip.toNat < s.params.memSize ∧ s.ip.toNat < s.params.ipWidth.limit) ∧
  (∀ n (s : State) m, s.Inv →
    (∀ a, a < s.params.ipWidth.limit → (s.setMem m).readByte a = s.readByte a) →
    ∃ t, core.run n s = .next t ∧ core.run n (s.setMem m) = .next (t.setMem m)) ∧
  (∀ (p : Params) a, a < p.memSize → a < p.ipWidth.limit →
    ∃ n, ∃ t : State, core.run n (State.boot p []) = .next t ∧ t.ip.toNat = a ∧ t.fetchOob = false)

/-- The laws of the model's memory (R34, R36): a byte written reads back, every other byte stands, the canonical form is kept,
and canonical memories with the same bytes are the same data. -/
def Obligations.MemoryWriteKeepsCanonicalForm : Prop :=
  (∀ (m : Memory) a v, m.wf = true → (m.write a v).wf = true ∧
    ∀ k, (m.write a v).byte k = if k = a then v else m.byte k) ∧
  (∀ image : List Byte, (Memory.ofImage image).wf = true) ∧
  (∀ m m' : Memory, m.wf = true → m'.wf = true → (∀ a, m.byte a = m'.byte a) → m = m')

/-! Decoding. -/

/-- R62, R63, R64: the opcode map, one meaning for each of the 256 bytes. -/
def Obligations.DecoderFollowsTheOpcodeMap : Prop :=
  decode 0x00 = .nop ∧ decode 0x01 = .movab ∧ decode 0x02 = .movba ∧ decode 0x03 = .movac ∧ decode 0x04 = .movbc ∧
  decode 0x05 = .movca ∧ decode 0x06 = .movcb ∧ decode 0x07 = .inca ∧ decode 0x08 = .incb ∧ decode 0x09 = .incc ∧
  decode 0x0A = .cmpab ∧ decode 0x0B = .cmpac ∧ decode 0x0C = .cmpbc ∧ decode 0x0D = .addab ∧ decode 0x0E = .addac ∧
  decode 0x0F = .addbc ∧ decode 0x10 = .addba ∧ decode 0x11 = .addca ∧ decode 0x12 = .addcb ∧ decode 0x13 = .subab ∧
  decode 0x14 = .subac ∧ decode 0x15 = .subba ∧ decode 0x16 = .subbc ∧ decode 0x17 = .subca ∧ decode 0x18 = .subcb ∧
  decode 0xFF = .dump ∧ ∀ b : Byte, 0x19 ≤ b.toNat → b.toNat ≤ 0xFE → decode b = .dump

/-- The encoder and the decoder (R60, R64): every instruction's opcode decodes to it, and the bytes that are some
instruction's own opcode are exactly 0x00 to 0x18 and 0xFF. -/
def Obligations.EncodeAndDecodeAgree : Prop :=
  (∀ i : Instr, i.wf = true → decode (encode i) = i) ∧
  (∀ b : Byte, encode (decode b) = b ↔ b.toNat ≤ 0x18 ∨ b = 0xFF)

/-- R65's match/mask pairs (the spec's own derivation): the alias space 0x19 to 0xFE is exactly the union of the twelve patterns, which are disjoint, and
each of its bytes decodes to DUMP. -/
def Obligations.AliasPatternsPartitionTheAliasSpace : Prop :=
  aliasRows.length = 12 ∧
  ∀ b : Byte,
    ((0x19 ≤ b.toNat ∧ b.toNat ≤ 0xFE) ↔ ∃ r ∈ aliasRows, r.matchesByte b = true) ∧
    (∀ (j k : Nat) (r q : AliasRow), aliasRows[j]? = some r → aliasRows[k]? = some q → r.matchesByte b = true → q.matchesByte b = true →
      j = k) ∧
    (∀ r ∈ aliasRows, r.matchesByte b = true → decode b = .dump)

/-- R67 (the spec's own derivation, over the format of its decision D11): the control word of every byte value. -/
def Obligations.OpcodeRomHoldsTheControlWords : Prop :=
  ((List.range 25).map fun n => (rom (BitVec.ofNat 8 n)).bits.toNat) =
    [0x078, 0x0A1, 0x089, 0x0C1, 0x0C9, 0x091, 0x0B1, 0x0E2, 0x0EA, 0x0F2, 0x123, 0x143, 0x14B] ++
    [0x0A4, 0x0C4, 0x0CC, 0x08C, 0x094, 0x0B4, 0x0A5, 0x0C5, 0x08D, 0x0CD, 0x095, 0x0B5] ∧
  ∀ b : Byte, 0x19 ≤ b.toNat → (rom b).bits = 0x27E

/-- A program assembled from mnemonics (R69) and loaded at address 0 (R44, R171) is found again by fetching and decoding at
its positions; the zero fill behind it decodes to NOP (R90), and nothing can be fetched past the end of memory (R41). -/
def Obligations.AssembledProgramDecodesInPlace : Prop :=
  ∀ (p : Params) (program : List Instr), p.fits (assemble program) = true →
    (∀ k i, program[k]? = some i →
      ((State.boot p (assemble program)).readByte k).map decode = some i) ∧
    (∀ k, program.length ≤ k → k < p.memSize →
      ((State.boot p (assemble program)).readByte k).map decode = some .nop) ∧
    (∀ k, p.memSize ≤ k → (State.boot p (assemble program)).readByte k = none)

/-! The step. -/

/-- R80 and R82 (the wrap is the spec's own decision D2): the step of a running core runs the instruction decoded from the byte at `ip`, in the state whose `ip` has moved on
(past the last address to 0 under `wrap`) and whose `dump_valid` is 0. -/
def Obligations.StepRunsTheDecodedInstruction : Prop :=
  (∀ s opcode, Ready s opcode →
    step s = exec (decode opcode) { s with ip := s.ip + 1, dumpPort := none }) ∧
  (∀ (s : State) opcode, s.rst = false → s.run = .running → s.readByte s.ip.toNat = some opcode →
    s.ip.toNat + 1 = s.params.ipWidth.limit → s.params.ipOverflow = .wrap →
    step s = exec (decode opcode) { s with ip := 0, dumpPort := none })

/-- The word `withFetchWord` places is the instruction the next step runs (the model's own way of placing an instruction,
log 3), wherever the advance has a value. -/
def Obligations.PlacedWordIsTheNextInstruction : Prop :=
  ∀ (s : State) w ip', s.mem.wf = true → advanceIp s.params s.ip = some ip' →
    ∃ t, step (s.withFetchWord 8 w) = exec (decode (BitVec.ofNat 8 w)) t ∧
      decodeTableWord 8 w = some (decode (BitVec.ofNat 8 w)) ∧
      t.ip = ip' ∧ (∀ r, t.reg r = s.reg r) ∧ t.flags = s.flags ∧ t.dumpTrace = s.dumpTrace ∧ t.run = .running ∧
      ∀ a, a ≠ s.ip.toNat → t.mem.byte a = s.mem.byte a

/-- R80, R83, R84 with R66 and R67 (the spec's own decisions D4, D6, D11, D17): the step by family rules is the step by opcode ROM, ALU and datapath, in every state and
whatever the unused ALU outputs hold (log 9). -/
def Obligations.DatapathRefinesTheFamilyRules : Prop :=
  ∀ s, step s = .next (romStep s)

/-- R24, R25: the opcode fetched is the byte at `ip`, the advance by exactly 1 comes before the instruction executes and is the
same for every opcode, the advance is a running core's only write to `ip`, no instruction writes `ip`, none but DUMP reads it,
and reset writes 0. -/
def Obligations.InstructionPointerAdvancesByOneAndIsNotRead : Prop :=
  (∀ s opcode, Ready s opcode → step s = exec (decode opcode) { s with ip := s.ip + 1, dumpPort := none } ∧
    ∃ t, step s = .next t ∧ t.ip.toNat = s.ip.toNat + 1) ∧
  (∀ s t, s.rst = false → step s = .next t → t.ip = s.ip ∨ advanceIp s.params s.ip = some t.ip) ∧
  (∀ s : State, s.applyReset.ip = 0) ∧
  (∀ i s t, exec i s = .next t → t.ip = s.ip) ∧
  (∀ i s t v, i ≠ .dump → exec i s = .next t → exec i (s.setIp v) = .next (t.setIp v)) ∧
  (∀ s, ∃ t r, exec .dump s = .next t ∧ t.dumpPort = some r ∧ r.ip = s.ip)

/-- R81: the stop of a fetch at or above `MEM_SIZE`, with everything it leaves. `dump_valid` is 0 by R143. -/
def Obligations.FetchOutOfBoundsStopsTheCore : Prop :=
  (∀ s : State, s.rst = false → s.run = .running → s.params.memSize ≤ s.ip.toNat →
    ∃ t, step s = .next t ∧ t.run = .stopped .fetchOutOfBounds s.ip ∧
      (∀ r, t.reg r = s.reg r) ∧ t.flags = s.flags ∧ t.ip = s.ip ∧ t.params = s.params ∧ t.dumpTrace = s.dumpTrace ∧
      t.dumpValid = false ∧ ∀ a, t.readByte a = s.readByte a) ∧
  (∀ i s, ∃ t, exec i s = .next t ∧ t.run = s.run) ∧
  (∀ p : Params, p.memSize = 0 → ∃ t : State, step (State.boot p []) = .next t ∧ t.run = .stopped .fetchOutOfBounds 0)

/-- R82, R151 (the spec's own decision D2; the cause code is D8): the advance below the top, the stop at the top under `fault` with everything it leaves and its code, and the
wrap at the top under `wrap`, where the instruction executes. -/
def Obligations.IpOverflowFaultsOrWraps : Prop :=
  (∀ s opcode, Ready s opcode →
    ∃ t, step s = .next t ∧ t.ip.toNat = s.ip.toNat + 1 ∧ t.run = .running) ∧
  (∀ (s : State) opcode, s.rst = false → s.run = .running → s.readByte s.ip.toNat = some opcode →
    s.ip.toNat + 1 = s.params.ipWidth.limit → s.params.ipOverflow = .fault →
    ∃ t, step s = .next t ∧ t.run = .stopped .ipOverflow s.ip ∧ t.stopAddr = some s.ip ∧ t.stopCause = some 1 ∧
      (∀ r, t.reg r = s.reg r) ∧ t.flags = s.flags ∧ t.ip = s.ip ∧ t.params = s.params ∧ t.dumpTrace = s.dumpTrace ∧
      t.dumpValid = false ∧ ∀ a, t.readByte a = s.readByte a) ∧
  (∀ (s : State) opcode, s.rst = false → s.run = .running → s.readByte s.ip.toNat = some opcode →
    s.ip.toNat + 1 = s.params.ipWidth.limit → s.params.ipOverflow = .wrap →
    step s = exec (decode opcode) { s with ip := 0, dumpPort := none } ∧
      ∃ t, step s = .next t ∧ t.ip = 0 ∧ t.run = .running) ∧
  (∀ (s t : State) addr, s.params.ipOverflow = .wrap → s.run = .running → step s = .next t →
    t.run ≠ .stopped .ipOverflow addr)

/-- R153 (the spec's own decision D17): the fetch is checked before the advance, and an instruction raises nothing, so the two never compete. -/
def Obligations.FetchStopComesBeforeOverflowStop : Prop :=
  (∀ s : State, s.rst = false → s.run = .running → s.params.memSize ≤ s.ip.toNat →
    s.ip.toNat + 1 = s.params.ipWidth.limit → ∃ t, step s = .next t ∧ t.run = .stopped .fetchOutOfBounds s.ip) ∧
  (∀ s t addr, s.run = .running → step s = .next t → t.run = .stopped .ipOverflow addr →
    ∃ opcode, s.readByte s.ip.toNat = some opcode) ∧
  (∀ i s, ∃ t, exec i s = .next t ∧ t.run = s.run)

/-- R85 (the spec's own decision D8): any number of steps of a stopped core that is not under reset changes nothing but
`dump_valid`, which is 0 (R143). -/
def Obligations.StoppedCoreStaysUntilReset : Prop :=
  ∀ n (s : State) cause addr, s.rst = false → s.run = .stopped cause addr →
    ∃ t : State, core.run n s = .next t ∧ t.clearDump = s.clearDump ∧ (n ≠ 0 → t.dumpValid = false)

/-- R154 (the spec's own decision D8): a stop is precise. The step that stops changes nothing but the run state (and `dump_valid`, which is 0), records the
address it stopped at, and no number of later steps changes anything. -/
def Obligations.StopsArePrecise : Prop :=
  ∀ (s t : State) cause addr, s.rst = false → s.run = .running → step s = .next t → t.run = .stopped cause addr →
    addr = s.ip ∧ t = { s with run := .stopped cause s.ip, dumpPort := none } ∧ ∀ n, core.run n t = .next t

/-- R152: no step faults or is refused, and the only stops are the two of R150 and R151. The exact condition of each rests on the
spec's own decisions D2 (the stop at the top under `fault`, R151) and D17 (the fetch is checked first, R153). -/
def Obligations.NoOtherExceptionExists : Prop :=
  (∀ i s, ∃ t, exec i s = .next t ∧ t.run = s.run) ∧
  ∀ s, ∃ t, step s = .next t ∧
    (s.rst = false → s.run = .running →
      (t.run = .stopped .fetchOutOfBounds s.ip ↔ s.params.memSize ≤ s.ip.toNat) ∧
      (t.run = .stopped .ipOverflow s.ip ↔
        s.ip.toNat < s.params.memSize ∧ s.ip.toNat + 1 = s.params.ipWidth.limit ∧ s.params.ipOverflow = .fault) ∧
      (t.run = .running ∨ t.run = .stopped .fetchOutOfBounds s.ip ∨ t.run = .stopped .ipOverflow s.ip))

/-- R86, first half (with the spec's own decision D2), and the bound that goes with it: with `IP_OVERFLOW = fault`, or with a memory shorter than `2^IP_WIDTH`, a
running core stops within `2^IP_WIDTH − ip` steps, at the end of memory if that lies below the top, else at the top. -/
def Obligations.RunStopsWithinTheAddressSpace : Prop :=
  ∀ s : State, s.Inv → s.rst = false → s.run = .running →
    (s.params.ipOverflow = .fault ∨ s.params.memSize < s.params.ipWidth.limit) →
    ∃ n, ∃ t : State, n ≤ s.params.ipWidth.limit - s.ip.toNat ∧ core.run n s = .next t ∧
      (s.params.memSize < s.params.ipWidth.limit →
        t.run = .stopped .fetchOutOfBounds t.ip ∧ t.ip.toNat = max s.ip.toNat s.params.memSize) ∧
      (s.params.ipWidth.limit ≤ s.params.memSize →
        t.run = .stopped .ipOverflow t.ip ∧ t.ip.toNat + 1 = s.params.ipWidth.limit)

/-- R86, last part (the spec's own derivation): when `MEM_SIZE ≥ 2^IP_WIDTH` and `IP_OVERFLOW = wrap`, no step ever stops the core. -/
def Obligations.WrappingCoreRunsForever : Prop :=
  ∀ (s : State) n, s.Inv → s.rst = false → s.run = .running → s.params.ipOverflow = .wrap →
    s.params.ipWidth.limit ≤ s.params.memSize →
    ∃ t : State, core.run n s = .next t ∧ t.run = .running ∧
      t.ip.toNat = (s.ip.toNat + n) % s.params.ipWidth.limit

/-- R156 (the spec's own decision D19) as the model reads it (log 4): judged, a step into or at `Stopped(IpOverflow, addr)` is a fault, every other step is
the step itself, and a stop at a fetch out of bounds is the normal end. -/
def Obligations.OnlyIpOverflowIsJudgedAFault : Prop :=
  ∀ s, ∃ t, step s = .next t ∧
    (∀ addr, judgedStep s = .fault (.ipOverflow addr) ↔ t.run = .stopped .ipOverflow addr) ∧
    ((∀ addr, t.run ≠ .stopped .ipOverflow addr) → judgedStep s = .next t) ∧
    (s.rst = false → s.run = .running → s.params.memSize ≤ s.ip.toNat → judgedStep s = .next t ∧ t.ended = true) ∧
    (s.rst = false → s.run = .running → s.ip.toNat < s.params.memSize →
      s.ip.toNat + 1 = s.params.ipWidth.limit → s.params.ipOverflow = .fault →
      judgedStep s = .fault (.ipOverflow s.ip) ∧ t.ended = false)

/-! The instructions. -/

/-- R90: NOP changes nothing but what the step does, and the zero fill past an image executes as NOPs. -/
def Obligations.NopChangesNothing : Prop :=
  RunsAs .nop 0x00 0x078 NothingWritten ∧
  (∀ (p : Params) (image : List Byte) k, image.length ≤ k → k < p.memSize →
    ((State.boot p image).readByte k).map decode = some .nop)

/-- R91 to R96: the six moves. -/
def Obligations.MovesCopyTheSource : Prop :=
  RunsAs .movab 0x01 0x0A1 (fun s t => RegWritten .A (valueOf .B s) s t) ∧
  RunsAs .movba 0x02 0x089 (fun s t => RegWritten .B (valueOf .A s) s t) ∧
  RunsAs .movac 0x03 0x0C1 (fun s t => RegWritten .A (valueOf .C s) s t) ∧
  RunsAs .movbc 0x04 0x0C9 (fun s t => RegWritten .B (valueOf .C s) s t) ∧
  RunsAs .movca 0x05 0x091 (fun s t => RegWritten .C (valueOf .A s) s t) ∧
  RunsAs .movcb 0x06 0x0B1 (fun s t => RegWritten .C (valueOf .B s) s t)

/-- R100 to R102 (modulo 256 is the spec's own decision D4): the three increments. -/
def Obligations.IncrementsAddOneModulo256 : Prop :=
  RunsAs .inca 0x07 0x0E2 (fun s t => RegWritten .A ((valueOf .A s + 1) % 256) s t) ∧
  RunsAs .incb 0x08 0x0EA (fun s t => RegWritten .B ((valueOf .B s + 1) % 256) s t) ∧
  RunsAs .incc 0x09 0x0F2 (fun s t => RegWritten .C ((valueOf .C s + 1) % 256) s t)

/-- R103 (the spec's own derivation): n increments in a row leave (x0 + n) mod 256. -/
def Obligations.RepeatedIncrementAddsTheCount : Prop :=
  ∀ n : Nat, ∀ ir ∈ increments, ∀ s, ∃ t, execTimes ir.1 n s = .next t ∧
    RegWritten ir.2 ((valueOf ir.2 s + (n : Int)) % 256) s t ∧ t.ip = s.ip ∧ t.dumpPort = s.dumpPort

/-- R110 to R113: the three compares (unsigned is the spec's own decision D6, that all three flags are written D7). -/
def Obligations.ComparesWriteGreaterEqualLess : Prop :=
  RunsAs .cmpab 0x0A 0x123 (Compared .A .B) ∧
  RunsAs .cmpac 0x0B 0x143 (Compared .A .C) ∧
  RunsAs .cmpbc 0x0C 0x14B (Compared .B .C)

/-- R114 (partly the spec's own derivation): just after a compare exactly one of G, E, L is set, whatever F was, and F is one of three values when F.C and bits
7:4 were 0; a core that has compared once keeps a compare flag until reset, and none is set before. -/
def Obligations.ExactlyOneCompareFlagAfterCompare : Prop :=
  (∀ i ∈ compares, ∀ s, ∃ t, exec i s = .next t ∧
    (t.flags &&& 0x0E = 0x02 ∨ t.flags &&& 0x0E = 0x04 ∨ t.flags &&& 0x0E = 0x08) ∧
    (t.flags.getLsbD 0 = s.flags.getLsbD 0) ∧
    (s.Inv → t.flags = 0x02 ∨ t.flags = 0x04 ∨ t.flags = 0x08)) ∧
  (∀ s t, s.rst = false → step s = .next t → s.flags &&& 0x0E ≠ 0 → t.flags &&& 0x0E ≠ 0) ∧
  (∀ i s t, i ∉ compares → exec i s = .next t → t.flags = s.flags) ∧
  (∀ p image, (State.boot p image).flags &&& 0x0E = 0)

/-- R120 to R125 (modulo 256 is the spec's own decision D4): the six additions. -/
def Obligations.AdditionsAddModulo256 : Prop :=
  RunsAs .addab 0x0D 0x0A4 (fun s t => RegWritten .A ((valueOf .A s + valueOf .B s) % 256) s t) ∧
  RunsAs .addac 0x0E 0x0C4 (fun s t => RegWritten .A ((valueOf .A s + valueOf .C s) % 256) s t) ∧
  RunsAs .addbc 0x0F 0x0CC (fun s t => RegWritten .B ((valueOf .B s + valueOf .C s) % 256) s t) ∧
  RunsAs .addba 0x10 0x08C (fun s t => RegWritten .B ((valueOf .B s + valueOf .A s) % 256) s t) ∧
  RunsAs .addca 0x11 0x094 (fun s t => RegWritten .C ((valueOf .C s + valueOf .A s) % 256) s t) ∧
  RunsAs .addcb 0x12 0x0B4 (fun s t => RegWritten .C ((valueOf .C s + valueOf .B s) % 256) s t)

/-- R130 to R135 (modulo 256 is the spec's own decision D4): the six subtractions. -/
def Obligations.SubtractionsSubtractModulo256 : Prop :=
  RunsAs .subab 0x13 0x0A5 (fun s t => RegWritten .A ((valueOf .A s - valueOf .B s) % 256) s t) ∧
  RunsAs .subac 0x14 0x0C5 (fun s t => RegWritten .A ((valueOf .A s - valueOf .C s) % 256) s t) ∧
  RunsAs .subba 0x15 0x08D (fun s t => RegWritten .B ((valueOf .B s - valueOf .A s) % 256) s t) ∧
  RunsAs .subbc 0x16 0x0CD (fun s t => RegWritten .B ((valueOf .B s - valueOf .C s) % 256) s t) ∧
  RunsAs .subca 0x17 0x095 (fun s t => RegWritten .C ((valueOf .C s - valueOf .A s) % 256) s t) ∧
  RunsAs .subcb 0x18 0x0B5 (fun s t => RegWritten .C ((valueOf .C s - valueOf .B s) % 256) s t)

/-- R126, R136 (the spec's own decision D4): one wrapping law for all twelve, the same bit pattern for unsigned and two's-complement operands, no carry or
borrow recorded, and subtraction not commutative. -/
def Obligations.TwelveArithmeticInstructionsShareOneWrappingLaw : Prop :=
  (∀ ixy ∈ additions, ∀ s, ∃ t, exec ixy.1 s = .next t ∧
    valueOf ixy.2.1 t = (valueOf ixy.2.1 s + valueOf ixy.2.2 s) % 256 ∧
    signedValueOf ixy.2.1 t = Int.bmod (signedValueOf ixy.2.1 s + signedValueOf ixy.2.2 s) 256 ∧ t.flags = s.flags) ∧
  (∀ ixy ∈ subtractions, ∀ s, ∃ t, exec ixy.1 s = .next t ∧
    valueOf ixy.2.1 t = (valueOf ixy.2.1 s - valueOf ixy.2.2 s) % 256 ∧
    signedValueOf ixy.2.1 t = Int.bmod (signedValueOf ixy.2.1 s - signedValueOf ixy.2.2 s) 256 ∧ t.flags = s.flags) ∧
  (∀ s : State, s.a = 0x05 → s.b = 0x03 →
    ∃ t u, exec .subab s = .next t ∧ exec .subba s = .next u ∧ t.a = 0x02 ∧ t.b = 0x03 ∧ u.b = 0xFE ∧ u.a = 0x05)

/-- R141: DUMP's record, taken with the advanced `ip` (0 across a wrap), and that DUMP changes nothing else and does not stop
the core. -/
def Obligations.DumpEmitsTheSnapshotRecord : Prop :=
  decode 0xFF = .dump ∧ encode .dump = 0xFF ∧ (rom 0xFF).bits = 0x27E ∧
  (∀ s, ∃ t, exec .dump s = .next t ∧ Emitted s.ip s t) ∧
  (∀ s, Ready s 0xFF → ∃ t, step s = .next t ∧ Emitted (s.ip + 1) s t) ∧
  (∀ s : State, s.rst = false → s.run = .running → s.readByte s.ip.toNat = some 0xFF →
    s.ip.toNat + 1 = s.params.ipWidth.limit → s.params.ipOverflow = .wrap →
    ∃ t, step s = .next t ∧ Emitted 0 s t)

/-- R142: every byte 0x19 to 0xFE executes exactly as 0xFF, and the record carries no trace of the byte. -/
def Obligations.AliasBytesExecuteAsDump : Prop :=
  ∀ b : Byte, 0x19 ≤ b.toNat → b.toNat ≤ 0xFE →
    decode b = .dump ∧ rom b = rom 0xFF ∧ (rom b).bits = 0x27E ∧
    (∀ s, Ready s b → ∃ t, step s = .next t ∧ Emitted (s.ip + 1) s t) ∧
    (∀ s : State, s.rst = false → s.run = .running → s.readByte s.ip.toNat = some b →
      s.ip.toNat + 1 = s.params.ipWidth.limit → s.params.ipOverflow = .wrap →
      ∃ t, step s = .next t ∧ Emitted 0 s t)

/-- R143 (the spec's own decision D9): only a step that executes DUMP raises `dump_valid`, every such step does, and the trace
holds one entry per DUMP step. -/
def Obligations.OnlyDumpStepsEmitRecords : Prop :=
  ∀ s, ∃ t, step s = .next t ∧
    (t.dumpValid = true ↔
      s.rst = false ∧ s.run = .running ∧ (s.readByte s.ip.toNat).map decode = some .dump ∧
        advanceIp s.params s.ip ≠ none) ∧
    (s.rst = false → t.dumpTrace = s.dumpTrace ++ t.dumpRec.toList)

/-! Rules over all instructions. -/

/-- R22 (the spec's own derivation from R64): which instructions write and which read each general register. -/
def Obligations.RegistersAreWrittenAndReadAsTabled : Prop :=
  ∀ r i,
    (i ∉ writersOf r ↔ ∀ s t, exec i s = .next t → t.reg r = s.reg r) ∧
    (i ∉ readersOf r ↔ ∀ s v t, exec i s = .next t →
      exec i (s.setReg r v) = .next (if i ∈ writersOf r then t else t.setReg r v))

/-- R30: `SetFlag` sets or clears one bit of F and never another, and every instruction's writes to F are such writes. -/
def Obligations.SetFlagWritesOneBit : Prop :=
  (∀ f v F, setFlag f v F = if v then F ||| f.mask else F &&& ~~~f.mask) ∧
  (∀ f v F, (setFlag f v F).getLsbD f.bit = v ∧ ∀ k, k ≠ f.bit → (setFlag f v F).getLsbD k = F.getLsbD k) ∧
  (∀ i s t, exec i s = .next t →
    ∃ writes : List (Flag × Bool), t.flags = writes.foldl (fun F w => setFlag w.1 w.2 F) s.flags)

/-- The layout of R27 (the spec's own decision D5): each flag's mask is its bit, and reading a flag is reading that bit. -/
def Obligations.FlagsSitAtTheirBits : Prop :=
  Flag.mask .C = 0x01 ∧ Flag.mask .G = 0x02 ∧ Flag.mask .E = 0x04 ∧ Flag.mask .L = 0x08 ∧
  Flag.bit .C = 0 ∧ Flag.bit .G = 1 ∧ Flag.bit .E = 2 ∧ Flag.bit .L = 3 ∧
  ∀ f F, flagOf f F = F.getLsbD f.bit

/-- R29: only a compare writes a flag, it leaves F.C, and no instruction but DUMP reads F: a run of any other instruction over
another F gives the same state but for F, and a compare writes the same G, E, L. -/
def Obligations.OnlyComparesWriteFlagsAndOnlyDumpReadsThem : Prop :=
  (∀ i s, i ∉ compares → ∃ t, exec i s = .next t ∧ t.flags = s.flags) ∧
  (∀ i ∈ compares, ∀ s, ∃ t, exec i s = .next t ∧ ∀ k, k ≠ 1 → k ≠ 2 → k ≠ 3 →
    t.flags.getLsbD k = s.flags.getLsbD k) ∧
  (∀ i s t F, i ≠ .dump → exec i s = .next t →
    ∃ u, exec i (s.setFlags F) = .next u ∧ u.setFlags t.flags = t ∧
      (i ∈ compares → u.flags &&& 0x0E = t.flags &&& 0x0E) ∧ (i ∉ compares → u.flags = F)) ∧
  (∀ s, ∃ t r, exec .dump s = .next t ∧ t.dumpPort = some r ∧ r.overflow = s.flags.getLsbD 0 ∧
    r.cmpGreater = s.flags.getLsbD 1 ∧ r.cmpEqual = s.flags.getLsbD 2 ∧ r.cmpLess = s.flags.getLsbD 3) ∧
  (∀ F : Byte, F &&& 0xF0 = 0 → ∃ writes : List (Flag × Bool),
    F = writes.foldl (fun G w => setFlag w.1 w.2 G) 0x00)

/-- R31: no step but reset changes F.C, so from reset it stays 0 forever, through every run of every program, and arithmetic
overflow is silent: no INC, ADD or SUB writes F at all. -/
def Obligations.CarryFlagIsNeverWritten : Prop :=
  (∀ s t, s.rst = false → step s = .next t → t.flags.getLsbD 0 = s.flags.getLsbD 0) ∧
  (∀ n p image, ∃ t : State, core.run n (State.boot p image) = .next t ∧ t.flags.getLsbD 0 = false) ∧
  (∀ i, (∃ r, (i, r) ∈ increments) ∨ (∃ x y, (i, x, y) ∈ additions ++ subtractions) →
    ∀ s, ∃ t, exec i s = .next t ∧ t.flags = s.flags)

/-! The invariant. -/

/-- The invariant holds at the model's reset state (the empty image, log 3). -/
def Obligations.ResetMeetsTheInvariant : Prop := State.reset.Inv

/-- The invariant holds of every core booted with legal parameters (R7) and an image that fits (R171). -/
def Obligations.BootMeetsTheInvariant : Prop :=
  ∀ (p : Params) (image : List Byte), p.wf = true → p.fits image = true → (State.boot p image).Inv

/-- Every step keeps the invariant. -/
def Obligations.StepKeepsTheInvariant : Prop :=
  ∀ s t : State, s.Inv → step s = .next t → t.Inv

/-- Every move of the host keeps the invariant. -/
def Obligations.HostMovesKeepTheInvariant : Prop :=
  ∀ (m : HostMove) (s t : State), s.Inv → hostMove m s = .next t → t.Inv
end

