-- ==== Sys2Proof/Laws/State.lean ====
section
/-! SUPPORT. One lemma per field per update of `State`, so that no later proof unfolds a record update. -/

namespace Sys2Proof.Machine

variable (s : State)

/-! `setReg` -/

@[simp] theorem State.setReg_ip (r : Reg) (v : Byte) : (s.setReg r v).ip = s.ip := by cases r <;> rfl
@[simp] theorem State.setReg_flags (r : Reg) (v : Byte) : (s.setReg r v).flags = s.flags := by cases r <;> rfl
@[simp] theorem State.setReg_run (r : Reg) (v : Byte) : (s.setReg r v).run = s.run := by cases r <;> rfl
@[simp] theorem State.setReg_mem (r : Reg) (v : Byte) : (s.setReg r v).mem = s.mem := by cases r <;> rfl
@[simp] theorem State.setReg_params (r : Reg) (v : Byte) : (s.setReg r v).params = s.params := by cases r <;> rfl
@[simp] theorem State.setReg_rst (r : Reg) (v : Byte) : (s.setReg r v).rst = s.rst := by cases r <;> rfl
@[simp] theorem State.setReg_dumpPort (r : Reg) (v : Byte) : (s.setReg r v).dumpPort = s.dumpPort := by cases r <;> rfl
@[simp] theorem State.setReg_dumpTrace (r : Reg) (v : Byte) : (s.setReg r v).dumpTrace = s.dumpTrace := by cases r <;> rfl
@[simp] theorem State.setReg_readByte (r : Reg) (v : Byte) (addr : Nat) : (s.setReg r v).readByte addr = s.readByte addr := by cases r <;> rfl

/-! `setFlags` -/

@[simp] theorem State.setFlags_a (v : Byte) : (s.setFlags v).a = s.a := rfl
@[simp] theorem State.setFlags_b (v : Byte) : (s.setFlags v).b = s.b := rfl
@[simp] theorem State.setFlags_c (v : Byte) : (s.setFlags v).c = s.c := rfl
@[simp] theorem State.setFlags_ip (v : Byte) : (s.setFlags v).ip = s.ip := rfl
@[simp] theorem State.setFlags_flags (v : Byte) : (s.setFlags v).flags = v := rfl
@[simp] theorem State.setFlags_run (v : Byte) : (s.setFlags v).run = s.run := rfl
@[simp] theorem State.setFlags_mem (v : Byte) : (s.setFlags v).mem = s.mem := rfl
@[simp] theorem State.setFlags_params (v : Byte) : (s.setFlags v).params = s.params := rfl
@[simp] theorem State.setFlags_rst (v : Byte) : (s.setFlags v).rst = s.rst := rfl
@[simp] theorem State.setFlags_dumpPort (v : Byte) : (s.setFlags v).dumpPort = s.dumpPort := rfl
@[simp] theorem State.setFlags_dumpTrace (v : Byte) : (s.setFlags v).dumpTrace = s.dumpTrace := rfl
@[simp] theorem State.setFlags_reg (v : Byte) (q : Reg) : (s.setFlags v).reg q = s.reg q := by cases q <;> rfl
@[simp] theorem State.setFlags_readByte (v : Byte) (addr : Nat) : (s.setFlags v).readByte addr = s.readByte addr := rfl

/-! `setIp` -/

@[simp] theorem State.setIp_a (v : Address) : (s.setIp v).a = s.a := rfl
@[simp] theorem State.setIp_b (v : Address) : (s.setIp v).b = s.b := rfl
@[simp] theorem State.setIp_c (v : Address) : (s.setIp v).c = s.c := rfl
@[simp] theorem State.setIp_ip (v : Address) : (s.setIp v).ip = v := rfl
@[simp] theorem State.setIp_flags (v : Address) : (s.setIp v).flags = s.flags := rfl
@[simp] theorem State.setIp_run (v : Address) : (s.setIp v).run = s.run := rfl
@[simp] theorem State.setIp_mem (v : Address) : (s.setIp v).mem = s.mem := rfl
@[simp] theorem State.setIp_params (v : Address) : (s.setIp v).params = s.params := rfl
@[simp] theorem State.setIp_rst (v : Address) : (s.setIp v).rst = s.rst := rfl
@[simp] theorem State.setIp_dumpPort (v : Address) : (s.setIp v).dumpPort = s.dumpPort := rfl
@[simp] theorem State.setIp_dumpTrace (v : Address) : (s.setIp v).dumpTrace = s.dumpTrace := rfl
@[simp] theorem State.setIp_reg (v : Address) (q : Reg) : (s.setIp v).reg q = s.reg q := by cases q <;> rfl
@[simp] theorem State.setIp_readByte (v : Address) (addr : Nat) : (s.setIp v).readByte addr = s.readByte addr := rfl

/-! `clearDump` -/

@[simp] theorem State.clearDump_a : (s.clearDump).a = s.a := rfl
@[simp] theorem State.clearDump_b : (s.clearDump).b = s.b := rfl
@[simp] theorem State.clearDump_c : (s.clearDump).c = s.c := rfl
@[simp] theorem State.clearDump_ip : (s.clearDump).ip = s.ip := rfl
@[simp] theorem State.clearDump_flags : (s.clearDump).flags = s.flags := rfl
@[simp] theorem State.clearDump_run : (s.clearDump).run = s.run := rfl
@[simp] theorem State.clearDump_mem : (s.clearDump).mem = s.mem := rfl
@[simp] theorem State.clearDump_params : (s.clearDump).params = s.params := rfl
@[simp] theorem State.clearDump_rst : (s.clearDump).rst = s.rst := rfl
@[simp] theorem State.clearDump_dumpPort : (s.clearDump).dumpPort = none := rfl
@[simp] theorem State.clearDump_dumpTrace : (s.clearDump).dumpTrace = s.dumpTrace := rfl
@[simp] theorem State.clearDump_reg (q : Reg) : (s.clearDump).reg q = s.reg q := by cases q <;> rfl
@[simp] theorem State.clearDump_readByte (addr : Nat) : (s.clearDump).readByte addr = s.readByte addr := rfl

/-! `emitDump` -/

@[simp] theorem State.emitDump_a (r : DumpRecord) : (s.emitDump r).a = s.a := rfl
@[simp] theorem State.emitDump_b (r : DumpRecord) : (s.emitDump r).b = s.b := rfl
@[simp] theorem State.emitDump_c (r : DumpRecord) : (s.emitDump r).c = s.c := rfl
@[simp] theorem State.emitDump_ip (r : DumpRecord) : (s.emitDump r).ip = s.ip := rfl
@[simp] theorem State.emitDump_flags (r : DumpRecord) : (s.emitDump r).flags = s.flags := rfl
@[simp] theorem State.emitDump_run (r : DumpRecord) : (s.emitDump r).run = s.run := rfl
@[simp] theorem State.emitDump_mem (r : DumpRecord) : (s.emitDump r).mem = s.mem := rfl
@[simp] theorem State.emitDump_params (r : DumpRecord) : (s.emitDump r).params = s.params := rfl
@[simp] theorem State.emitDump_rst (r : DumpRecord) : (s.emitDump r).rst = s.rst := rfl
@[simp] theorem State.emitDump_dumpPort (r : DumpRecord) : (s.emitDump r).dumpPort = some r := rfl
@[simp] theorem State.emitDump_dumpTrace (r : DumpRecord) : (s.emitDump r).dumpTrace = s.dumpTrace ++ [r] := rfl
@[simp] theorem State.emitDump_reg (r : DumpRecord) (q : Reg) : (s.emitDump r).reg q = s.reg q := by cases q <;> rfl
@[simp] theorem State.emitDump_readByte (r : DumpRecord) (addr : Nat) : (s.emitDump r).readByte addr = s.readByte addr := rfl

/-! `stop` -/

@[simp] theorem State.stop_a (cause : StopCause) : (s.stop cause).a = s.a := rfl
@[simp] theorem State.stop_b (cause : StopCause) : (s.stop cause).b = s.b := rfl
@[simp] theorem State.stop_c (cause : StopCause) : (s.stop cause).c = s.c := rfl
@[simp] theorem State.stop_ip (cause : StopCause) : (s.stop cause).ip = s.ip := rfl
@[simp] theorem State.stop_flags (cause : StopCause) : (s.stop cause).flags = s.flags := rfl
@[simp] theorem State.stop_run (cause : StopCause) : (s.stop cause).run = .stopped cause s.ip := rfl
@[simp] theorem State.stop_mem (cause : StopCause) : (s.stop cause).mem = s.mem := rfl
@[simp] theorem State.stop_params (cause : StopCause) : (s.stop cause).params = s.params := rfl
@[simp] theorem State.stop_rst (cause : StopCause) : (s.stop cause).rst = s.rst := rfl
@[simp] theorem State.stop_dumpPort (cause : StopCause) : (s.stop cause).dumpPort = s.dumpPort := rfl
@[simp] theorem State.stop_dumpTrace (cause : StopCause) : (s.stop cause).dumpTrace = s.dumpTrace := rfl
@[simp] theorem State.stop_reg (cause : StopCause) (q : Reg) : (s.stop cause).reg q = s.reg q := by cases q <;> rfl
@[simp] theorem State.stop_readByte (cause : StopCause) (addr : Nat) : (s.stop cause).readByte addr = s.readByte addr := rfl

/-! `applyReset` -/

@[simp] theorem State.applyReset_a : (s.applyReset).a = 0 := rfl
@[simp] theorem State.applyReset_b : (s.applyReset).b = 0 := rfl
@[simp] theorem State.applyReset_c : (s.applyReset).c = 0 := rfl
@[simp] theorem State.applyReset_ip : (s.applyReset).ip = 0 := rfl
@[simp] theorem State.applyReset_flags : (s.applyReset).flags = 0 := rfl
@[simp] theorem State.applyReset_run : (s.applyReset).run = .running := rfl
@[simp] theorem State.applyReset_mem : (s.applyReset).mem = s.mem := rfl
@[simp] theorem State.applyReset_params : (s.applyReset).params = s.params := rfl
@[simp] theorem State.applyReset_rst : (s.applyReset).rst = s.rst := rfl
@[simp] theorem State.applyReset_dumpPort : (s.applyReset).dumpPort = none := rfl
@[simp] theorem State.applyReset_dumpTrace : (s.applyReset).dumpTrace = s.dumpTrace := rfl
@[simp] theorem State.applyReset_reg (r : Reg) : (s.applyReset).reg r = 0 := by cases r <;> rfl
@[simp] theorem State.applyReset_readByte (addr : Nat) : (s.applyReset).readByte addr = s.readByte addr := rfl

/-! `setRst` -/

@[simp] theorem State.setRst_a (level : Bool) : (s.setRst level).a = s.a := rfl
@[simp] theorem State.setRst_b (level : Bool) : (s.setRst level).b = s.b := rfl
@[simp] theorem State.setRst_c (level : Bool) : (s.setRst level).c = s.c := rfl
@[simp] theorem State.setRst_ip (level : Bool) : (s.setRst level).ip = s.ip := rfl
@[simp] theorem State.setRst_flags (level : Bool) : (s.setRst level).flags = s.flags := rfl
@[simp] theorem State.setRst_run (level : Bool) : (s.setRst level).run = s.run := rfl
@[simp] theorem State.setRst_mem (level : Bool) : (s.setRst level).mem = s.mem := rfl
@[simp] theorem State.setRst_params (level : Bool) : (s.setRst level).params = s.params := rfl
@[simp] theorem State.setRst_rst (level : Bool) : (s.setRst level).rst = level := rfl
@[simp] theorem State.setRst_dumpPort (level : Bool) : (s.setRst level).dumpPort = s.dumpPort := rfl
@[simp] theorem State.setRst_dumpTrace (level : Bool) : (s.setRst level).dumpTrace = s.dumpTrace := rfl
@[simp] theorem State.setRst_reg (level : Bool) (q : Reg) : (s.setRst level).reg q = s.reg q := by cases q <;> rfl
@[simp] theorem State.setRst_readByte (level : Bool) (addr : Nat) : (s.setRst level).readByte addr = s.readByte addr := rfl

/-! `setMem` -/

@[simp] theorem State.setMem_a (m : Memory) : (s.setMem m).a = s.a := rfl
@[simp] theorem State.setMem_b (m : Memory) : (s.setMem m).b = s.b := rfl
@[simp] theorem State.setMem_c (m : Memory) : (s.setMem m).c = s.c := rfl
@[simp] theorem State.setMem_ip (m : Memory) : (s.setMem m).ip = s.ip := rfl
@[simp] theorem State.setMem_flags (m : Memory) : (s.setMem m).flags = s.flags := rfl
@[simp] theorem State.setMem_run (m : Memory) : (s.setMem m).run = s.run := rfl
@[simp] theorem State.setMem_mem (m : Memory) : (s.setMem m).mem = m := rfl
@[simp] theorem State.setMem_params (m : Memory) : (s.setMem m).params = s.params := rfl
@[simp] theorem State.setMem_rst (m : Memory) : (s.setMem m).rst = s.rst := rfl
@[simp] theorem State.setMem_dumpPort (m : Memory) : (s.setMem m).dumpPort = s.dumpPort := rfl
@[simp] theorem State.setMem_dumpTrace (m : Memory) : (s.setMem m).dumpTrace = s.dumpTrace := rfl
@[simp] theorem State.setMem_reg (m : Memory) (q : Reg) : (s.setMem m).reg q = s.reg q := by cases q <;> rfl

/-! Registers. -/

@[simp] theorem State.reg_setReg_same (r : Reg) (v : Byte) : (s.setReg r v).reg r = v := by cases r <;> rfl

theorem State.reg_setReg_of_ne (r q : Reg) (v : Byte) (h : q ≠ r) : (s.setReg r v).reg q = s.reg q := by
  cases r <;> cases q <;> first | rfl | exact absurd rfl h

theorem State.reg_A : s.reg .A = s.a := rfl
theorem State.reg_B : s.reg .B = s.b := rfl
theorem State.reg_C : s.reg .C = s.c := rfl

theorem State.setReg_A (v : Byte) : s.setReg .A v = { s with a := v } := rfl
theorem State.setReg_B (v : Byte) : s.setReg .B v = { s with b := v } := rfl
theorem State.setReg_C (v : Byte) : s.setReg .C v = { s with c := v } := rfl

/-! Memory reads (R41). -/

theorem State.readByte_of_lt (addr : Nat) (h : addr < s.params.memSize) :
    s.readByte addr = some (s.mem.byte addr) := if_pos h

theorem State.readByte_of_le (addr : Nat) (h : s.params.memSize ≤ addr) : s.readByte addr = none :=
  if_neg (Nat.not_lt.mpr h)

theorem State.readByte_eq_none_iff (addr : Nat) : s.readByte addr = none ↔ s.params.memSize ≤ addr := by
  unfold State.readByte
  split <;> simp <;> omega

theorem State.readByte_eq_some_iff (addr : Nat) (v : Byte) :
    s.readByte addr = some v ↔ addr < s.params.memSize ∧ s.mem.byte addr = v := by
  unfold State.readByte
  split <;> simp <;> omega

end Sys2Proof.Machine
end

