-- ==== Sys2Proof/Laws/Ops.lean ====
section
/-! SUPPORT. One lemma per shared operation that says once everything it can do: the arithmetic of the operand forms, the
advance of the instruction pointer, and the first half of a step. -/

namespace Sys2Proof.Machine

/-! Arithmetic (R84, R126). -/

theorem incByte_toNat (x : Byte) : (incByte x).toNat = (x.toNat + 1) % 256 := by simp [incByte]

theorem addByte_toNat (x y : Byte) : (addByte x y).toNat = (x.toNat + y.toNat) % 256 := by simp [addByte]

theorem subByte_toNat (x y : Byte) : ((subByte x y).toNat : Int) = ((x.toNat : Int) - (y.toNat : Int)) % 256 := by
  rw [subByte, BitVec.toNat_ofInt]
  omega

theorem incByte_eq (x : Byte) : incByte x = x + 1 := by
  apply BitVec.eq_of_toNat_eq; simp [incByte]

theorem addByte_eq (x y : Byte) : addByte x y = x + y := by
  apply BitVec.eq_of_toNat_eq; simp [addByte]

theorem subByte_eq (x y : Byte) : subByte x y = x - y := by
  have h := subByte_toNat x y
  apply BitVec.eq_of_toNat_eq
  rw [BitVec.toNat_sub]
  omega

/-! The advance (R82). -/

/-- The three outcomes of the advance. -/
theorem advanceIp_cases (p : Params) (ip : Address) :
    (ip.toNat + 1 ≠ p.ipWidth.limit ∧ advanceIp p ip = some (ip + 1)) ∨
    (ip.toNat + 1 = p.ipWidth.limit ∧ p.ipOverflow = .wrap ∧ advanceIp p ip = some 0) ∨
    (ip.toNat + 1 = p.ipWidth.limit ∧ p.ipOverflow = .fault ∧ advanceIp p ip = none) := by
  unfold advanceIp
  split
  · cases h : p.ipOverflow <;> simp_all
  · exact .inl ⟨‹_›, rfl⟩

/-- The limit is at most `2 ^ 16`, so the plain advance never wraps in 16 bits below the top. -/
theorem ipWidth_limit_le (w : IpWidth) : w.limit ≤ 65536 := by cases w <;> decide

theorem address_succ_toNat (p : Params) (ip : Address) (h : ip.toNat + 1 < p.ipWidth.limit) :
    (ip + 1).toNat = ip.toNat + 1 := by
  have hl := ipWidth_limit_le p.ipWidth
  rw [BitVec.toNat_add]
  show (ip.toNat + 1) % 65536 = ip.toNat + 1
  omega

/-! The first half of a step (R80). -/

/-- Everything the first half of a step can do, guards included. -/
theorem State.issue_cases (s : State) :
    (s.rst = true ∧ s.issue = .halted s.applyReset) ∨
    (s.rst = false ∧ s.run ≠ .running ∧ s.issue = .halted s.clearDump) ∨
    (s.rst = false ∧ s.run = .running ∧ s.params.memSize ≤ s.ip.toNat ∧
      s.issue = .halted (s.clearDump.stop .fetchOutOfBounds)) ∨
    (s.rst = false ∧ s.run = .running ∧ s.ip.toNat < s.params.memSize ∧ advanceIp s.params s.ip = none ∧
      s.issue = .halted (s.clearDump.stop .ipOverflow)) ∨
    (s.rst = false ∧ s.run = .running ∧ s.ip.toNat < s.params.memSize ∧ ∃ ip', advanceIp s.params s.ip = some ip' ∧
      s.issue = .execute (s.mem.byte s.ip.toNat) (s.clearDump.setIp ip')) := by
  unfold State.issue
  cases hr : s.rst
  · cases hrun : s.run with
    | stopped cause addr => simp
    | running =>
      by_cases hm : s.ip.toNat < s.params.memSize
      · simp only [s.readByte_of_lt _ hm]
        cases ha : advanceIp s.params s.ip <;> simp_all
      · have hm' := Nat.not_lt.mp hm
        simp only [s.readByte_of_le _ hm']
        simp_all
  · simp

end Sys2Proof.Machine
end

