-- ==== Sys2Proof/Laws/Exec.lean ====
section
/-! SUPPORT. What `exec` can do, said once: every instruction answers a next state, and leaves `ip`, the run state, program memory,
the parameters and `rst` alone (R83). What `step` can do follows. -/

namespace Sys2Proof.Machine

/-- What no instruction changes. -/
structure ExecFrame (s t : State) : Prop where
  ip     : t.ip = s.ip
  run    : t.run = s.run
  mem    : t.mem = s.mem
  params : t.params = s.params
  rst    : t.rst = s.rst

/-! The frame of each shared operation a meaning calls. -/

theorem ExecFrame.refl (s : State) : ExecFrame s s := ⟨rfl, rfl, rfl, rfl, rfl⟩

theorem setReg_frame (s : State) (r : Reg) (v : Byte) : ExecFrame s (s.setReg r v) :=
  ⟨by simp, by simp, by simp, by simp, by simp⟩

theorem copyReg_frame (s : State) (dst src : Reg) : ExecFrame s (s.copyReg dst src) := setReg_frame s dst _

theorem updateReg_frame (s : State) (r : Reg) (f : Byte → Byte) : ExecFrame s (s.updateReg r f) := setReg_frame s r _

theorem combineRegs_frame (s : State) (x y : Reg) (f : Byte → Byte → Byte) : ExecFrame s (s.combineRegs x y f) :=
  setReg_frame s x _

theorem compareRegs_frame (s : State) (p q : Reg) : ExecFrame s (s.compareRegs p q) := ⟨rfl, rfl, rfl, rfl, rfl⟩

theorem emitDump_frame (s : State) (r : DumpRecord) : ExecFrame s (s.emitDump r) := ⟨rfl, rfl, rfl, rfl, rfl⟩

/-- Every instruction answers a next state, inside the frame. -/
theorem exec_answers (i : Instr) (s : State) : ∃ t, exec i s = .next t ∧ ExecFrame s t := by
  cases i <;> refine ⟨_, rfl, ?_⟩
  case nop => exact ExecFrame.refl s
  case dump => exact emitDump_frame s _
  case cmpab | cmpac | cmpbc => exact compareRegs_frame s _ _
  case inca | incb | incc => exact updateReg_frame s _ _
  case movab | movba | movac | movbc | movca | movcb => exact copyReg_frame s _ _
  all_goals exact combineRegs_frame s _ _ _

/-- Everything a step can do, guards included. -/
theorem step_cases (s t : State) (h : step s = .next t) :
    (s.rst = true ∧ t = s.applyReset) ∨
    (s.rst = false ∧ s.run ≠ .running ∧ t = s.clearDump) ∨
    (s.rst = false ∧ s.run = .running ∧ s.params.memSize ≤ s.ip.toNat ∧
      t = s.clearDump.stop .fetchOutOfBounds) ∨
    (s.rst = false ∧ s.run = .running ∧ s.ip.toNat < s.params.memSize ∧ advanceIp s.params s.ip = none ∧
      t = s.clearDump.stop .ipOverflow) ∨
    (s.rst = false ∧ s.run = .running ∧ s.ip.toNat < s.params.memSize ∧ ∃ ip', advanceIp s.params s.ip = some ip' ∧
      exec (decode (s.mem.byte s.ip.toNat)) (s.clearDump.setIp ip') = .next t) := by
  unfold step at h
  rcases s.issue_cases with ⟨h1, hi⟩ | ⟨h1, h2, hi⟩ | ⟨h1, h2, h3, hi⟩ | ⟨h1, h2, h3, h4, hi⟩ |
    ⟨h1, h2, h3, ip', h4, hi⟩ <;> rw [hi] at h <;> simp only at h
  · injection h with h; exact .inl ⟨h1, h.symm⟩
  · injection h with h; exact .inr (.inl ⟨h1, h2, h.symm⟩)
  · injection h with h; exact .inr (.inr (.inl ⟨h1, h2, h3, h.symm⟩))
  · injection h with h; exact .inr (.inr (.inr (.inl ⟨h1, h2, h3, h4, h.symm⟩)))
  · exact .inr (.inr (.inr (.inr ⟨h1, h2, h3, ip', h4, h⟩)))

/-- A run of `n + 1` steps is one step and a run of `n`. -/
theorem run_succ_of_step (n : Nat) (s t : State) (h : step s = .next t) :
    Sys2Proof.core.run (n + 1) s = Sys2Proof.core.run n t := by
  have general : ∀ (M : Host.Core) (x y : M.State), M.step x = .next y → M.run (n + 1) x = M.run n y := by
    intro M x y hxy
    simp [Host.Core.run, hxy]
  exact general Sys2Proof.core s t h

end Sys2Proof.Machine
end

