-- ==== Sys2Proof/Laws/Memory.lean ====
section
/-! SUPPORT. The laws of program memory: what a byte reads as after a write and after loading an image, and that every memory
operation keeps the canonical form. -/

namespace Sys2Proof.Machine

@[simp] theorem Memory.wfFrom_nil (low : Nat) : Memory.wfFrom low [] = true := rfl

theorem Memory.wfFrom_cons (low k : Nat) (v : Byte) (m : Memory) :
    Memory.wfFrom low ((k, v) :: m) = true ↔ low ≤ k ∧ v ≠ 0 ∧ Memory.wfFrom (k + 1) m = true := by
  simp [Memory.wfFrom, and_assoc]

theorem Memory.wfFrom_mono (m : Memory) (low low' : Nat) (h : low ≤ low') (hw : Memory.wfFrom low' m = true) :
    Memory.wfFrom low m = true := by
  cases m with
  | nil => rfl
  | cons cell m =>
    obtain ⟨k, v⟩ := cell
    rw [Memory.wfFrom_cons] at hw ⊢
    exact ⟨h.trans hw.1, hw.2⟩

/-- Below the canonical form's start nothing is listed. -/
theorem Memory.byte_of_lt (m : Memory) (low a : Nat) (hw : Memory.wfFrom low m = true) (h : a < low) :
    m.byte a = 0 := by
  induction m generalizing low with
  | nil => rfl
  | cons cell m ih =>
    obtain ⟨k, v⟩ := cell
    rw [Memory.wfFrom_cons] at hw
    rw [Memory.byte, if_neg (by omega)]
    exact ih (k + 1) hw.2.2 (by omega)

/-- A write keeps the canonical form, from the lower of its start and the address written. -/
theorem Memory.write_wfFrom (m : Memory) (low a : Nat) (v : Byte) (hw : Memory.wfFrom low m = true) (h : low ≤ a) :
    Memory.wfFrom low (m.write a v) = true := by
  induction m generalizing low with
  | nil =>
    unfold Memory.write
    split
    · rfl
    · rw [Memory.wfFrom_cons]; exact ⟨h, ‹_›, rfl⟩
  | cons cell m ih =>
    obtain ⟨k, w⟩ := cell
    have hc := (Memory.wfFrom_cons low k w m).mp hw
    unfold Memory.write
    split
    · split
      · exact hw
      · rw [Memory.wfFrom_cons]
        exact ⟨h, ‹_›, (Memory.wfFrom_cons _ _ _ _).mpr ⟨by omega, hc.2⟩⟩
    · split
      · split
        · exact Memory.wfFrom_mono m low (k + 1) (by omega) hc.2.2
        · subst a; exact (Memory.wfFrom_cons _ _ _ _).mpr ⟨hc.1, ‹_›, hc.2.2⟩
      · exact (Memory.wfFrom_cons _ _ _ _).mpr ⟨hc.1, hc.2.1, ih (k + 1) hc.2.2 (by omega)⟩

/-- Every write keeps the canonical form. -/
theorem Memory.write_wf (m : Memory) (a : Nat) (v : Byte) (hw : m.wf = true) : (m.write a v).wf = true :=
  Memory.write_wfFrom m 0 a v hw (Nat.zero_le a)

/-- A byte written reads back. -/
theorem Memory.byte_write_same (m : Memory) (low a : Nat) (v : Byte) (hw : Memory.wfFrom low m = true) :
    (m.write a v).byte a = v := by
  induction m generalizing low with
  | nil => unfold Memory.write; split <;> simp_all [Memory.byte]
  | cons cell m ih =>
    obtain ⟨k, w⟩ := cell
    have hc := (Memory.wfFrom_cons low k w m).mp hw
    unfold Memory.write
    split
    · split
      · rw [Memory.byte, if_neg (by omega), Memory.byte_of_lt m (k + 1) a hc.2.2 (by omega)]; exact ‹v = 0›.symm
      · rw [Memory.byte, if_pos rfl]
    · split
      · split
        · subst a; rw [Memory.byte_of_lt m (k + 1) k hc.2.2 (by omega)]; exact ‹v = 0›.symm
        · rw [Memory.byte, if_pos rfl]
      · rw [Memory.byte, if_neg (by omega)]; exact ih (k + 1) hc.2.2

/-- A write leaves every other byte. -/
theorem Memory.byte_write_of_ne (m : Memory) (low a k : Nat) (v : Byte) (hw : Memory.wfFrom low m = true) (h : k ≠ a) :
    (m.write a v).byte k = m.byte k := by
  induction m generalizing low with
  | nil => unfold Memory.write; split <;> simp [Memory.byte, h.symm]
  | cons cell m ih =>
    obtain ⟨j, w⟩ := cell
    have hc := (Memory.wfFrom_cons low j w m).mp hw
    unfold Memory.write
    split
    · split
      · rfl
      · rw [Memory.byte, if_neg h.symm]
    · split
      · subst a
        split
        · rw [Memory.byte, if_neg h.symm]
        · rw [Memory.byte, Memory.byte, if_neg h.symm, if_neg h.symm]
      · simp only [Memory.byte]; rw [ih (j + 1) hc.2.2]

/-- A loaded image is in canonical form from its first address on. -/
theorem Memory.ofImageFrom_wfFrom (image : List Byte) (start : Nat) :
    Memory.wfFrom start (Memory.ofImageFrom start image) = true := by
  induction image generalizing start with
  | nil => rfl
  | cons v image ih =>
    unfold Memory.ofImageFrom
    split
    · exact Memory.wfFrom_mono _ start (start + 1) (by omega) (ih (start + 1))
    · exact (Memory.wfFrom_cons _ _ _ _).mpr ⟨le_refl start, ‹_›, ih (start + 1)⟩

/-- Loading an image gives a memory in canonical form. -/
theorem Memory.ofImage_wf (image : List Byte) : (Memory.ofImage image).wf = true := Memory.ofImageFrom_wfFrom image 0

/-- Reset's memory is in canonical form. -/
theorem reset_mem_wf : State.reset.mem.wf = true := rfl

/-- What a loaded image reads as: image byte `i` at address `start + i`. -/
theorem Memory.byte_ofImageFrom (image : List Byte) (start k : Nat) :
    (Memory.ofImageFrom start image).byte (start + k) = image.getD k 0 := by
  induction image generalizing start k with
  | nil => simp [Memory.ofImageFrom, Memory.byte]
  | cons v image ih =>
    cases k with
    | zero =>
      unfold Memory.ofImageFrom
      split
      · rw [Memory.byte_of_lt _ (start + 1) _ (Memory.ofImageFrom_wfFrom image (start + 1)) (by omega)]
        simpa using ‹v = 0›.symm
      · simp [Memory.byte]
    | succ k =>
      have h := ih (start + 1) k
      rw [show start + 1 + k = start + (k + 1) by omega] at h
      unfold Memory.ofImageFrom
      split
      · simpa using h
      · rw [Memory.byte, if_neg (by omega)]; simpa using h

end Sys2Proof.Machine
end

