-- ==== Sys2Proof/Laws/PerInstr.lean ====
section
/-! SUPPORT. The per-instruction family `Encoding`: every instruction is well formed, its opcode decodes to it, and its opcode is
a named one of R64 (0x00 to 0x18 or 0xFF), never an alias byte. -/

namespace Sys2Proof.Laws

/-- The encoding facts of one instruction (R64, R65). -/
def Encoding.Statement (i : Instr) : Prop :=
  i.wf = true ∧ decode (encode i) = i ∧ ((encode i).toNat ≤ 0x18 ∨ encode i = 0xFF)

theorem Encoding.nop : Encoding.Statement .nop := by unfold Encoding.Statement; decide
theorem Encoding.movab : Encoding.Statement .movab := by unfold Encoding.Statement; decide
theorem Encoding.movba : Encoding.Statement .movba := by unfold Encoding.Statement; decide
theorem Encoding.movac : Encoding.Statement .movac := by unfold Encoding.Statement; decide
theorem Encoding.movbc : Encoding.Statement .movbc := by unfold Encoding.Statement; decide
theorem Encoding.movca : Encoding.Statement .movca := by unfold Encoding.Statement; decide
theorem Encoding.movcb : Encoding.Statement .movcb := by unfold Encoding.Statement; decide
theorem Encoding.inca : Encoding.Statement .inca := by unfold Encoding.Statement; decide
theorem Encoding.incb : Encoding.Statement .incb := by unfold Encoding.Statement; decide
theorem Encoding.incc : Encoding.Statement .incc := by unfold Encoding.Statement; decide
theorem Encoding.cmpab : Encoding.Statement .cmpab := by unfold Encoding.Statement; decide
theorem Encoding.cmpac : Encoding.Statement .cmpac := by unfold Encoding.Statement; decide
theorem Encoding.cmpbc : Encoding.Statement .cmpbc := by unfold Encoding.Statement; decide
theorem Encoding.addab : Encoding.Statement .addab := by unfold Encoding.Statement; decide
theorem Encoding.addac : Encoding.Statement .addac := by unfold Encoding.Statement; decide
theorem Encoding.addbc : Encoding.Statement .addbc := by unfold Encoding.Statement; decide
theorem Encoding.addba : Encoding.Statement .addba := by unfold Encoding.Statement; decide
theorem Encoding.addca : Encoding.Statement .addca := by unfold Encoding.Statement; decide
theorem Encoding.addcb : Encoding.Statement .addcb := by unfold Encoding.Statement; decide
theorem Encoding.subab : Encoding.Statement .subab := by unfold Encoding.Statement; decide
theorem Encoding.subac : Encoding.Statement .subac := by unfold Encoding.Statement; decide
theorem Encoding.subba : Encoding.Statement .subba := by unfold Encoding.Statement; decide
theorem Encoding.subbc : Encoding.Statement .subbc := by unfold Encoding.Statement; decide
theorem Encoding.subca : Encoding.Statement .subca := by unfold Encoding.Statement; decide
theorem Encoding.subcb : Encoding.Statement .subcb := by unfold Encoding.Statement; decide
theorem Encoding.dump : Encoding.Statement .dump := by unfold Encoding.Statement; decide

end Sys2Proof.Laws
end

