-- ==== Sys2Proof/Tests/Slice0.lean ====
section
/-! SUPPORT. The model's own tests: the WellFormed smoke tests, every opcode written out from R64, small vectors from
95_test_vectors.md (cited at each), and for every obligation with hypotheses a witness that meets them. Expected results come
from the spec's tables, never from the model. -/

namespace Sys2Proof.Tests

open Sys2Proof.Machine

/-! WellFormed: each check refuses an ill-formed term. -/

theorem test_params_refuse_memory_over_65536 : (Params.mk .w16 .fault 65537).wf = false := by decide

theorem test_params_accept_memory_of_65536 : (Params.mk .w8 .wrap 65536).wf = true := by decide

theorem test_image_longer_than_memory_is_refused : (Params.mk .w16 .fault 1).fits [0x07, 0x08] = false := by decide

theorem test_every_instruction_is_well_formed : Instr.movab.wf = true ∧ Instr.dump.wf = true := by decide

/-! Decode: every constructor's opcode, bit by bit from R64's column "binary". -/

theorem test_decode_nop : decode 0b00000000 = .nop := by decide
theorem test_decode_movab : decode 0b00000001 = .movab := by decide
theorem test_decode_movba : decode 0b00000010 = .movba := by decide
theorem test_decode_movac : decode 0b00000011 = .movac := by decide
theorem test_decode_movbc : decode 0b00000100 = .movbc := by decide
theorem test_decode_movca : decode 0b00000101 = .movca := by decide
theorem test_decode_movcb : decode 0b00000110 = .movcb := by decide
theorem test_decode_inca : decode 0b00000111 = .inca := by decide
theorem test_decode_incb : decode 0b00001000 = .incb := by decide
theorem test_decode_incc : decode 0b00001001 = .incc := by decide
theorem test_decode_cmpab : decode 0b00001010 = .cmpab := by decide
theorem test_decode_cmpac : decode 0b00001011 = .cmpac := by decide
theorem test_decode_cmpbc : decode 0b00001100 = .cmpbc := by decide
theorem test_decode_addab : decode 0b00001101 = .addab := by decide
theorem test_decode_addac : decode 0b00001110 = .addac := by decide
theorem test_decode_addbc : decode 0b00001111 = .addbc := by decide
theorem test_decode_addba : decode 0b00010000 = .addba := by decide
theorem test_decode_addca : decode 0b00010001 = .addca := by decide
theorem test_decode_addcb : decode 0b00010010 = .addcb := by decide
theorem test_decode_subab : decode 0b00010011 = .subab := by decide
theorem test_decode_subac : decode 0b00010100 = .subac := by decide
theorem test_decode_subba : decode 0b00010101 = .subba := by decide
theorem test_decode_subbc : decode 0b00010110 = .subbc := by decide
theorem test_decode_subca : decode 0b00010111 = .subca := by decide
theorem test_decode_subcb : decode 0b00011000 = .subcb := by decide
theorem test_decode_dump : decode 0b11111111 = .dump := by decide

/-- 95_test_vectors.md 2.1: the first, an inner and the last alias byte. -/
theorem test_decode_aliases :
    decode 0x19 = .dump ∧ decode 0x1F = .dump ∧ decode 0x20 = .dump ∧ decode 0x7F = .dump ∧ decode 0x80 = .dump ∧
      decode 0xFE = .dump := by decide

theorem test_table_word_of_subba : decodeTableWord 8 0x15 = some .subba := by decide

theorem test_decode_first_leaves_the_rest : decodeFirst [0x07, 0x08] = some (.inca, [0x08]) := by decide

/-- R67: control words of three families. -/
theorem test_rom_words :
    (rom 0x07).bits = 0x0E2 ∧ (rom 0x0A).bits = 0x123 ∧ (rom 0x15).bits = 0x08D ∧ (rom 0x42).bits = 0x27E := by decide

/-! Helpers: a running core with given parameters, one listed byte at `ip`, and the state a step leaves. -/

def probe (p : Params) (ip : Address) (opcode : Byte) : State :=
  { State.reset with params := p, ip := ip, mem := Memory.write [] ip.toNat opcode }

def vectorState (opcode a b c flags : Byte) : State :=
  { probe (Params.mk .w16 .fault 1) 0 opcode with a := a, b := b, c := c, flags := flags }

def afterStep (s : State) : Option State :=
  match step s with
  | .next t => some t
  | .fault _ => none
  | .refused _ => none

/-- A, B, C, F and `ip` after the instruction at address 0 of a one-byte memory (W7). -/
def vector (opcode a b c flags : Byte) : Option (Byte × Byte × Byte × Byte × Address) :=
  (afterStep (vectorState opcode a b c flags)).map fun t => (t.a, t.b, t.c, t.flags, t.ip)

/-! Vectors of 95_test_vectors.md 2.2. -/

theorem test_nop : vector 0x00 0x01 0x02 0x03 0x04 = some (0x01, 0x02, 0x03, 0x04, 1) := by decide
theorem test_movab : vector 0x01 0x12 0x34 0x5A 0x00 = some (0x34, 0x34, 0x5A, 0x00, 1) := by decide
theorem test_movab_full_byte : vector 0x01 0x00 0xFF 0x00 0x00 = some (0xFF, 0xFF, 0x00, 0x00, 1) := by decide
theorem test_movba : vector 0x02 0x34 0x12 0x5A 0x00 = some (0x34, 0x34, 0x5A, 0x00, 1) := by decide
theorem test_movac : vector 0x03 0x12 0x5A 0x34 0x00 = some (0x34, 0x5A, 0x34, 0x00, 1) := by decide
theorem test_movbc : vector 0x04 0x5A 0x12 0x34 0x00 = some (0x5A, 0x34, 0x34, 0x00, 1) := by decide
theorem test_movca : vector 0x05 0x34 0x5A 0x12 0x00 = some (0x34, 0x5A, 0x34, 0x00, 1) := by decide
theorem test_movca_keeps_flags : vector 0x05 0x80 0x00 0x00 0x08 = some (0x80, 0x00, 0x80, 0x08, 1) := by decide
theorem test_movcb : vector 0x06 0x5A 0x34 0x12 0x00 = some (0x5A, 0x34, 0x34, 0x00, 1) := by decide

/-! Vectors of 95_test_vectors.md 2.3. -/

theorem test_inca : vector 0x07 0x05 0x00 0x00 0x00 = some (0x06, 0x00, 0x00, 0x00, 1) := by decide
theorem test_inca_wraps : vector 0x07 0xFF 0x00 0x00 0x00 = some (0x00, 0x00, 0x00, 0x00, 1) := by decide
theorem test_incb : vector 0x08 0x00 0x7F 0x00 0x00 = some (0x00, 0x80, 0x00, 0x00, 1) := by decide
theorem test_incb_wraps : vector 0x08 0x00 0xFF 0x00 0x04 = some (0x00, 0x00, 0x00, 0x04, 1) := by decide
theorem test_incc : vector 0x09 0x00 0x00 0x09 0x00 = some (0x00, 0x00, 0x0A, 0x00, 1) := by decide
theorem test_incc_wraps : vector 0x09 0x00 0x00 0xFF 0x00 = some (0x00, 0x00, 0x00, 0x00, 1) := by decide

/-! Vectors of 95_test_vectors.md 2.4. -/

theorem test_cmpab_clears_stale_flag : vector 0x0A 0x05 0x05 0x00 0x02 = some (0x05, 0x05, 0x00, 0x04, 1) := by decide
theorem test_cmpab_keeps_carry : vector 0x0A 0x01 0x02 0x00 0x0F = some (0x01, 0x02, 0x00, 0x09, 1) := by decide
theorem test_cmpac_less : vector 0x0B 0x10 0x00 0x20 0x02 = some (0x10, 0x00, 0x20, 0x08, 1) := by decide
theorem test_cmpac_unsigned : vector 0x0B 0x7F 0x00 0x80 0x00 = some (0x7F, 0x00, 0x80, 0x08, 1) := by decide
theorem test_cmpbc_equal : vector 0x0C 0x00 0x00 0x00 0x00 = some (0x00, 0x00, 0x00, 0x04, 1) := by decide
theorem test_cmpbc_less : vector 0x0C 0x00 0xFE 0xFF 0x02 = some (0x00, 0xFE, 0xFF, 0x08, 1) := by decide

/-! Vectors of 95_test_vectors.md 2.5. -/

theorem test_addab : vector 0x0D 0x20 0x15 0x00 0x00 = some (0x35, 0x15, 0x00, 0x00, 1) := by decide
theorem test_addab_wraps : vector 0x0D 0xFF 0x01 0x00 0x00 = some (0x00, 0x01, 0x00, 0x00, 1) := by decide
theorem test_addac_wraps : vector 0x0E 0x80 0x00 0x80 0x00 = some (0x00, 0x00, 0x80, 0x00, 1) := by decide
theorem test_addbc_wraps : vector 0x0F 0x00 0xF0 0x20 0x00 = some (0x00, 0x10, 0x20, 0x00, 1) := by decide
theorem test_addba : vector 0x10 0x15 0x20 0x00 0x00 = some (0x15, 0x35, 0x00, 0x00, 1) := by decide
theorem test_addba_wraps : vector 0x10 0xFF 0xFF 0x00 0x00 = some (0xFF, 0xFE, 0x00, 0x00, 1) := by decide
theorem test_addca_wraps : vector 0x11 0xFF 0x00 0x01 0x00 = some (0xFF, 0x00, 0x00, 0x00, 1) := by decide
theorem test_addcb_wraps : vector 0x12 0x00 0xC8 0x64 0x00 = some (0x00, 0xC8, 0x2C, 0x00, 1) := by decide

/-! Vectors of 95_test_vectors.md 2.6. -/

theorem test_subab : vector 0x13 0x04 0x03 0x00 0x00 = some (0x01, 0x03, 0x00, 0x00, 1) := by decide
theorem test_subab_wraps : vector 0x13 0x00 0x01 0x00 0x00 = some (0xFF, 0x01, 0x00, 0x00, 1) := by decide
theorem test_subac_wraps : vector 0x14 0x03 0x00 0x04 0x00 = some (0xFF, 0x00, 0x04, 0x00, 1) := by decide
theorem test_subba : vector 0x15 0x05 0x03 0x00 0x00 = some (0x05, 0xFE, 0x00, 0x00, 1) := by decide
theorem test_subbc : vector 0x16 0x00 0x00 0xFF 0x00 = some (0x00, 0x01, 0xFF, 0x00, 1) := by decide
theorem test_subca : vector 0x17 0x15 0x00 0x20 0x00 = some (0x15, 0x00, 0x0B, 0x00, 1) := by decide
theorem test_subcb : vector 0x18 0x00 0x01 0x80 0x00 = some (0x00, 0x01, 0x7F, 0x00, 1) := by decide

/-! Vectors of 95_test_vectors.md 2.7 and 2.8. -/

theorem test_alias_dump_record :
    (afterStep { probe (Params.mk .w16 .fault 65536) 0x1234 0x19 with a := 0xAB, b := 0xCD, c := 0xEF, flags := 0x08 }).map
      (fun t => (t.dumpRec, t.ip)) = some (some ⟨171, 205, 239, false, false, false, true, 4661⟩, 0x1235) := by decide

theorem test_dump_record_ip_after_wrap :
    (afterStep (probe (Params.mk .w8 .wrap 256) 255 0xFF)).map (fun t => (t.dumpRec, t.ip)) =
      some (some ⟨0, 0, 0, false, false, false, false, 0⟩, 0) := by decide

theorem test_fetch_out_of_bounds :
    (afterStep (probe (Params.mk .w16 .fault 4) 4 0x07)).map (fun t => (t.run, t.a, t.ip)) =
      some (.stopped .fetchOutOfBounds 4, 0, 4) := by decide

theorem test_empty_program_stops_at_once :
    (afterStep State.reset).map (fun t => (t.run, t.dumpTrace)) = some (.stopped .fetchOutOfBounds 0, []) := by decide

theorem test_ip_overflow_fault :
    (afterStep (probe (Params.mk .w8 .fault 256) 255 0x07)).map (fun t => (t.run, t.a, t.ip)) =
      some (.stopped .ipOverflow 255, 0, 255) := by decide

theorem test_ip_overflow_wrap :
    (afterStep (probe (Params.mk .w8 .wrap 256) 255 0x07)).map (fun t => (t.run, t.a, t.ip)) =
      some (.running, 1, 0) := by decide

theorem test_16_bit_ip_passes_255 :
    (afterStep (probe (Params.mk .w16 .fault 256) 255 0x07)).map (fun t => (t.run, t.a, t.ip)) =
      some (.running, 1, 256) := by decide

theorem test_16_bit_top_faults :
    (afterStep (probe (Params.mk .w16 .fault 65536) 0xFFFF 0x07)).map (fun t => t.run) =
      some (.stopped .ipOverflow 0xFFFF) := by decide

theorem test_placed_word_runs_first :
    (afterStep (State.reset.withFetchWord 8 0x07)).map (fun t => (t.a, t.ip, t.run)) = some (1, 1, .running) := by decide

theorem test_rom_step_agrees_on_compare :
    (romStep (vectorState 0x0A 0x80 0x7F 0x00 0x00)).flags = 0x02 := by decide

/-- R140: the fields in order, the flags of W5's prior state 0xB (C, G and L set). -/
theorem test_snapshot_reads_each_flag :
    ({ State.reset with flags := 0x0B } : State).snapshot = ⟨0, 0, 0, true, true, false, true, 0⟩ := by decide

/-- W5: no toggle. -/
theorem test_set_flag_does_not_toggle : setFlag .E true 0x4 = 0x4 ∧ setFlag .E false 0xB = 0xB := by decide

theorem test_write_of_zero_removes_the_entry : Memory.write [(1, 0x07), (3, 0x08)] 3 0x00 = [(1, 0x07)] := by decide

theorem test_host_write_while_released_is_refused :
    hostMove (.load [0x07]) State.reset = .refused .memoryWriteWhileReleased := rfl

theorem test_image_too_long_is_refused :
    hostMove (.load [0x07]) { State.reset with rst := true } = .refused .imageTooLong := rfl

/-! Witnesses: each meets all the hypotheses of the obligation (or clause) it is named after, at a boundary value. -/

/-- 8-bit and 16-bit parameters at full size. -/
def fault8 : Params := ⟨.w8, .fault, 256⟩

def wrap8 : Params := ⟨.w8, .wrap, 256⟩

def wrap16 : Params := ⟨.w16, .wrap, 65536⟩

def small : Params := ⟨.w16, .fault, 2⟩

/-- Every running probe within its parameters meets the invariant. -/
theorem probe_inv (p : Params) (ip : Address) (opcode : Byte) (hp : p.wf = true) (hm : ip.toNat < p.memSize)
    (hi : ip.toNat < p.ipWidth.limit) : (probe p ip opcode).Inv := by
  refine ⟨hp, Memory.write_wf [] _ _ rfl, ?_, hi, .inl rfl, trivial, ?_, ?_⟩
  · show Memory.within p.memSize (Memory.write [] ip.toNat opcode) = true
    unfold Memory.write Memory.within
    split <;> simp [hm]
  · intro r h; cases h
  · intro r h; cases h

/-- The stopped core of 2.8 (fetch out of bounds at 2), and the one stopped at the top. -/
def stoppedEnd : State := { probe small 2 0x00 with run := .stopped .fetchOutOfBounds 2 }

def stoppedTop : State := { probe fault8 255 0x07 with run := .stopped .ipOverflow 255 }

theorem witness_ready_first_address : Ready (probe small 0 0x07) 0x07 := ⟨rfl, rfl, by decide, by decide⟩

theorem witness_ready_last_address_before_top_8 : Ready (probe wrap8 254 0x0D) 0x0D := ⟨rfl, rfl, by decide, by decide⟩

theorem witness_ready_last_address_before_top_16 : Ready (probe wrap16 65534 0xFF) 0xFF :=
  ⟨rfl, rfl, by decide, by decide⟩

theorem witness_ready_alias_bounds : Ready (probe small 1 0x19) 0x19 ∧ Ready (probe small 1 0xFE) 0xFE :=
  ⟨⟨rfl, rfl, by decide, by decide⟩, ⟨rfl, rfl, by decide, by decide⟩⟩

theorem witness_top_wraps :
    (probe wrap8 255 0xFF).rst = false ∧ (probe wrap8 255 0xFF).run = .running ∧
      (probe wrap8 255 0xFF).readByte 255 = some 0xFF ∧ (255 : Address).toNat + 1 = wrap8.ipWidth.limit ∧
      wrap8.ipOverflow = .wrap := by decide

theorem witness_top_faults :
    (probe fault8 255 0x07).rst = false ∧ (probe fault8 255 0x07).run = .running ∧
      (probe fault8 255 0x07).readByte 255 = some 0x07 ∧ (255 : Address).toNat + 1 = fault8.ipWidth.limit ∧
      fault8.ipOverflow = .fault ∧ 255 < fault8.memSize := by decide

theorem witness_BootStateIsResetState :
    small.fits [0x07, 0x00] = true ∧ ([0x07, 0x00] : List Byte)[1]? = some 0x00 ∧
      small.fits [0x07] = true ∧ ([0x07] : List Byte).length ≤ 1 ∧ 1 < small.memSize := by decide

theorem witness_ResetSetsEveryRegister : ({ stoppedEnd with rst := true } : State).rst = true := rfl

theorem witness_OnlyResetLeavesAStop :
    ({ stoppedEnd with rst := true } : State).run ≠ .running ∧
      (∃ t, step { stoppedEnd with rst := true } = .next t ∧ t.run = .running) ∧ stoppedTop.rst = false ∧
      stoppedTop.run = .stopped .ipOverflow 255 :=
  ⟨by decide, ⟨_, rfl, rfl⟩, rfl, rfl⟩

theorem witness_AssertingRstResetsTheCore :
    stoppedEnd.run ≠ .running ∧ ∃ t, hostMove .assertRst stoppedEnd = .next t ∧ t.run = .running :=
  ⟨by decide, _, rfl, rfl⟩

theorem witness_HostChangesRegistersOnlyByReset :
    (∃ t, hostMove .releaseRst stoppedEnd = .next t) ∧ HostMove.releaseRst ≠ .assertRst ∧ HostMove.releaseRst ≠ .step ∧
      small.fits [0x07, 0x08] = true ∧ ([0x07, 0x08] : List Byte)[1]? = some 0x08 ∧ State.reset.rst = false :=
  ⟨⟨_, rfl⟩, by decide, by decide, by decide, by decide, rfl⟩

theorem witness_OutputsShowTheState :
    (probe small 1 0x07).fetchOob = false ∧ (probe small 2 0x07).fetchOob = true ∧
      stoppedEnd.run = .stopped .fetchOutOfBounds 2 ∧ stoppedTop.run = .stopped .ipOverflow 255 ∧
      (probe small 1 0x07).run = .running := by decide

theorem witness_FetchIsTheOnlyMemoryAccess :
    (probe small 0 0x07).params.memSize ≤ 2 ∧ 1 < (probe small 0 0x07).params.memSize ∧
      (∃ t, step (probe small 0 0x07) = .next t) ∧
      ((probe small 0 0x07).setMem [(0, 0x07), (1, 0x08)]).readByte 0 = (probe small 0 0x07).readByte 0 ∧
      (probe small 2 0x00).rst = false ∧ (probe small 2 0x00).run = .running ∧ (probe small 2 0x00).readByte 2 = none :=
  ⟨by decide, by decide, ⟨_, rfl⟩, by decide, by decide, by decide, by decide⟩

theorem witness_ProgramMemoryIsReadOnlyWhileRunning :
    (∃ t, exec .inca State.reset = .next t) ∧ (∃ t, step (probe small 0 0x07) = .next t) ∧
      ∃ t, core.run 2 (probe small 0 0x07) = .next t :=
  ⟨⟨_, rfl⟩, ⟨_, rfl⟩, ⟨_, rfl⟩⟩

theorem witness_ReachableAddressesLieBelowBothLimits :
    (probe wrap8 255 0x07).Inv ∧ (∃ t, (probe wrap8 255 0x07).issue = .execute 0x07 t) ∧
      (probe ⟨.w8, .wrap, 512⟩ 0 0x07).Inv ∧
      (∀ a, a < IpWidth.w8.limit → ((probe ⟨.w8, .wrap, 512⟩ 0 0x07).setMem [(0, 0x07), (256, 0x08)]).readByte a =
        (probe ⟨.w8, .wrap, 512⟩ 0 0x07).readByte a) ∧
      255 < wrap8.memSize ∧ 255 < wrap8.ipWidth.limit := by
  refine ⟨probe_inv _ _ _ (by decide) (by decide) (by decide), ⟨_, rfl⟩,
    probe_inv _ _ _ (by decide) (by decide) (by decide), ?_, by decide, by decide⟩
  intro a h
  have h' : a < 256 := h
  have hne : ¬(256 = a) := by omega
  show (if a < 512 then some (if 0 = a then 0x07 else if 256 = a then 0x08 else 0) else none) =
    (if a < 512 then some (if 0 = a then (0x07 : Byte) else 0) else none)
  rw [if_neg hne]

theorem witness_MemoryWriteKeepsCanonicalForm :
    Memory.wf [(1, 0x07), (3, 0x08)] = true ∧ Memory.wf (Memory.write [(1, 0x07)] 3 0x08) = true ∧
      Memory.write [(1, 0x07)] 3 0x08 = [(1, 0x07), (3, 0x08)] := by decide

theorem witness_AliasBytes :
    0x19 ≤ (0x19 : Byte).toNat ∧ (0x19 : Byte).toNat ≤ 0xFE ∧ 0x19 ≤ (0xFE : Byte).toNat ∧ (0xFE : Byte).toNat ≤ 0xFE ∧
      0x19 ≤ (0xFF : Byte).toNat ∧ (probe wrap8 255 0x19).rst = false ∧ (probe wrap8 255 0x19).run = .running ∧
      (probe wrap8 255 0x19).readByte 255 = some 0x19 ∧ wrap8.ipOverflow = .wrap := by decide

theorem witness_AliasPatternsPartitionTheAliasSpace :
    aliasRows[3]? = some ⟨0x20, 0xE0⟩ ∧ AliasRow.matchesByte ⟨0x20, 0xE0⟩ 0x3F = true ∧
      (⟨0x20, 0xE0⟩ : AliasRow) ∈ aliasRows := by decide

theorem witness_AssembledProgramDecodesInPlace :
    (Params.mk .w16 .fault 3).fits (assemble [.inca, .dump]) = true ∧
      ([.inca, .dump] : List Instr)[1]? = some .dump ∧ ([.inca, .dump] : List Instr).length ≤ 2 ∧ 2 < 3 := by decide

theorem witness_PlacedWordIsTheNextInstruction :
    State.reset.mem.wf = true ∧ advanceIp State.reset.params State.reset.ip = some 1 := by decide

theorem witness_InstructionPointerAdvancesByOneAndIsNotRead :
    (∃ t, exec .addab State.reset = .next t) ∧ Instr.addab ≠ .dump := ⟨⟨_, rfl⟩, by decide⟩

theorem witness_FetchOutOfBoundsStopsTheCore :
    (probe small 2 0x00).rst = false ∧ (probe small 2 0x00).run = .running ∧
      (probe small 2 0x00).params.memSize ≤ (probe small 2 0x00).ip.toNat ∧ (Params.mk .w8 .wrap 0).memSize = 0 := by decide

theorem witness_WrapNeverOverflows :
    wrap8.ipOverflow = .wrap ∧ (probe wrap8 255 0x07).run = .running ∧ ∃ t, step (probe wrap8 255 0x07) = .next t :=
  ⟨rfl, rfl, _, rfl⟩

/-- Both stop conditions at once: an 8-bit pointer at 255 over a memory of 255 bytes. -/
theorem witness_FetchStopComesBeforeOverflowStop :
    (probe ⟨.w8, .fault, 255⟩ 255 0x00).rst = false ∧ (probe ⟨.w8, .fault, 255⟩ 255 0x00).run = .running ∧
      255 ≤ (255 : Address).toNat ∧ (255 : Address).toNat + 1 = IpWidth.w8.limit ∧
      ∃ t, step (probe fault8 255 0x07) = .next t ∧ t.run = .stopped .ipOverflow 255 :=
  ⟨rfl, rfl, by decide, by decide, _, rfl, rfl⟩

theorem witness_StoppedCoreStaysUntilReset :
    stoppedEnd.rst = false ∧ stoppedEnd.run = .stopped .fetchOutOfBounds 2 := by decide

theorem witness_StopsArePrecise :
    (probe small 2 0x00).rst = false ∧ (probe small 2 0x00).run = .running ∧
      (∃ t, step (probe small 2 0x00) = .next t ∧ t.run = .stopped .fetchOutOfBounds 2) ∧
      ∃ t, step (probe fault8 255 0x07) = .next t ∧ t.run = .stopped .ipOverflow 255 :=
  ⟨rfl, rfl, ⟨_, rfl, rfl⟩, _, rfl, rfl⟩

theorem witness_RunStopsWithinTheAddressSpace :
    (probe small 0 0x07).Inv ∧ (probe fault8 255 0x07).Inv ∧ small.memSize < small.ipWidth.limit ∧
      fault8.ipWidth.limit ≤ fault8.memSize ∧ fault8.ipOverflow = .fault ∧ (probe fault8 255 0x07).run = .running ∧
      (probe fault8 255 0x07).rst = false :=
  ⟨probe_inv _ _ _ (by decide) (by decide) (by decide), probe_inv _ _ _ (by decide) (by decide) (by decide), by decide,
    by decide, rfl, rfl, rfl⟩

theorem witness_WrappingCoreRunsForever :
    (probe wrap16 0xFFFF 0x07).Inv ∧ (probe wrap16 0xFFFF 0x07).rst = false ∧ (probe wrap16 0xFFFF 0x07).run = .running ∧
      wrap16.ipOverflow = .wrap ∧ wrap16.ipWidth.limit ≤ wrap16.memSize :=
  ⟨probe_inv _ _ _ (by decide) (by decide) (by decide), rfl, rfl, rfl, by decide⟩

theorem witness_OnlyIpOverflowIsJudgedAFault :
    (∀ addr, (probe small 0 0x07).run ≠ .stopped .ipOverflow addr) ∧
      judgedStep (probe fault8 255 0x07) = .fault (.ipOverflow 255) :=
  ⟨fun addr h => (by cases h), rfl⟩

theorem witness_NopChangesNothing : ([0x07] : List Byte).length ≤ 1 ∧ 1 < small.memSize := by decide

theorem witness_listed_instructions :
    (Instr.inca, Reg.A) ∈ increments ∧ (Instr.addcb, Reg.C, Reg.B) ∈ additions ∧
      (Instr.subbc, Reg.B, Reg.C) ∈ subtractions ∧ Instr.cmpbc ∈ compares ∧ Instr.addab ∉ compares := by decide

theorem witness_ExactlyOneCompareFlagAfterCompare :
    State.Inv (probe small 0 0x0A) ∧ (vectorState 0x0A 5 5 0 0x02).rst = false ∧
      (vectorState 0x0A 5 5 0 0x02).flags &&& 0x0E ≠ 0 ∧ ∃ t, step (vectorState 0x0A 5 5 0 0x02) = .next t :=
  ⟨probe_inv _ _ _ (by decide) (by decide) (by decide), rfl, by decide, _, rfl⟩

theorem witness_TwelveArithmeticInstructionsShareOneWrappingLaw :
    (vectorState 0x13 0x05 0x03 0 0).a = 0x05 ∧ (vectorState 0x13 0x05 0x03 0 0).b = 0x03 := by decide

theorem witness_RegistersAreWrittenAndReadAsTabled :
    Instr.addab ∉ writersOf .B ∧ Instr.movab ∉ readersOf .A ∧ ∃ t, exec .addab State.reset = .next t :=
  ⟨by decide, by decide, _, rfl⟩

theorem witness_OnlyComparesWriteFlagsAndOnlyDumpReadsThem :
    Instr.cmpab ≠ .dump ∧ (∃ t, exec .cmpab State.reset = .next t) ∧ (0x0F : Byte) &&& 0xF0 = 0 :=
  ⟨by decide, ⟨_, rfl⟩, by decide⟩

theorem witness_CarryFlagIsNeverWritten :
    (Instr.incc, Reg.C) ∈ increments ∧ (Instr.subcb, Reg.C, Reg.B) ∈ additions ++ subtractions ∧
      (vectorState 0x0A 1 2 0 0x0F).rst = false ∧ ∃ t, step (vectorState 0x0A 1 2 0 0x0F) = .next t :=
  ⟨by decide, by decide, rfl, _, rfl⟩

theorem witness_BootMeetsTheInvariant :
    (Params.mk .w8 .fault 65536).wf = true ∧ small.fits [0x07, 0x00] = true := by decide

theorem witness_StepKeepsTheInvariant :
    (probe wrap8 255 0xFF).Inv ∧ ∃ t, step (probe wrap8 255 0xFF) = .next t :=
  ⟨probe_inv _ _ _ (by decide) (by decide) (by decide), _, rfl⟩

theorem witness_HostMovesKeepTheInvariant :
    (probe small 0 0x07).Inv ∧ ∃ t, hostMove .assertRst (probe small 0 0x07) = .next t :=
  ⟨probe_inv _ _ _ (by decide) (by decide) (by decide), _, rfl⟩

end Sys2Proof.Tests
end

namespace Sys2Proof

/-- R7 for the empty image: `MEM_SIZE` defaults to the image's length, 0. -/
theorem Params.defaultFor_nil : Params.defaultFor [] = ⟨.w16, .fault, 0⟩ := rfl

end Sys2Proof

namespace Sys2Proof.Machine

/-- R36 for the empty image: nothing is stored, so every address of program memory reads as the zero fill. -/
@[simp] theorem Memory.ofImage_nil : Memory.ofImage [] = [] := rfl

/-- Booting the empty image changes only the parameters of the reset state: their memories are the same. -/
theorem State.boot_nil (p : Params) : State.boot p [] = { State.reset with params := p } := by
  have hmem : State.reset.mem = Memory.ofImage [] := Memory.ofImage_nil.symm
  rw [State.boot, ← hmem]

/-- Settles O2: the reset state already holds the default parameters of the empty image, which is all that a boot of the
empty image sets. -/
theorem resetStateIsTheEmptyBoot : Obligations.ResetStateIsTheEmptyBoot := by
  have hparams : State.reset.params = Params.defaultFor [] := rfl
  refine ⟨?boot, hparams.trans Params.defaultFor_nil, rfl, rfl⟩
  case boot => rw [State.boot_nil, ← hparams]

end Sys2Proof.Machine

namespace Sys2Proof.Machine

/-! ## The form of an instruction's meaning

The model has six operand forms (R61) and one arm of `exec` per instruction. `formOf` names the form of each arm, and
`exec_eq_form` ties it to `exec`, so that a rule over all instructions has six cases, one per form. -/

/-- The six forms an instruction's meaning takes. -/
inductive Form where
  /-- Nothing is written (NOP). -/
  | idle
  /-- A register takes the value of another (R91 to R96). -/
  | copy (dst src : Reg)
  /-- A register takes a function of itself (R100 to R102). -/
  | update (r : Reg) (f : Byte → Byte)
  /-- A register takes a function of itself and another (R120 to R125, R130 to R135). -/
  | combine (x y : Reg) (f : Byte → Byte → Byte)
  /-- G, E and L are written from two registers (R110). -/
  | compare (p q : Reg)
  /-- The snapshot record is emitted (R141). -/
  | emit

/-- What a form does to the state, by the model's own operations. -/
def Form.apply : Form → State → State
  | .idle, s => s
  | .copy dst src, s => s.copyReg dst src
  | .update r f, s => s.updateReg r f
  | .combine x y f, s => s.combineRegs x y f
  | .compare p q, s => s.compareRegs p q
  | .emit, s => s.emitDump s.snapshot

/-- The form of each instruction (R90 to R96, R100 to R102, R111 to R113, R120 to R125, R130 to R135, R141). -/
def formOf : Instr → Form
  | .nop => .idle
  | .movab => .copy .A .B
  | .movba => .copy .B .A
  | .movac => .copy .A .C
  | .movbc => .copy .B .C
  | .movca => .copy .C .A
  | .movcb => .copy .C .B
  | .inca => .update .A incByte
  | .incb => .update .B incByte
  | .incc => .update .C incByte
  | .cmpab => .compare .A .B
  | .cmpac => .compare .A .C
  | .cmpbc => .compare .B .C
  | .addab => .combine .A .B addByte
  | .addac => .combine .A .C addByte
  | .addbc => .combine .B .C addByte
  | .addba => .combine .B .A addByte
  | .addca => .combine .C .A addByte
  | .addcb => .combine .C .B addByte
  | .subab => .combine .A .B subByte
  | .subac => .combine .A .C subByte
  | .subba => .combine .B .A subByte
  | .subbc => .combine .B .C subByte
  | .subca => .combine .C .A subByte
  | .subcb => .combine .C .B subByte
  | .dump => .emit

/-- Every instruction answers the next state its form gives. -/
theorem exec_eq_form (i : Instr) (s : State) : exec i s = .next ((formOf i).apply s) := by
  cases i <;> rfl

/-- The state an instruction answers is the one its form gives. -/
theorem exec_eq_next_iff (i : Instr) (s t : State) : exec i s = .next t ↔ t = (formOf i).apply s := by
  rw [exec_eq_form, Host.Outcome.next.injEq, eq_comm]

/-- Only DUMP emits a record. -/
theorem formOf_eq_emit_iff (i : Instr) : formOf i = .emit ↔ i = .dump := by
  cases i <;> simp [formOf]

/-- The instructions of compare form are exactly the compares. -/
theorem mem_compares_iff (i : Instr) : i ∈ compares ↔ ∃ p q, formOf i = .compare p q := by
  cases i <;> simp [formOf, compares]

/-! ## Steps and runs -/

/-- Every step answers a next state (R80). -/
theorem step_answers (s : State) : ∃ t, step s = .next t := by
  unfold step
  cases s.issue with
  | halted t => exact ⟨t, rfl⟩
  | execute opcode t => exact ⟨_, exec_eq_form (decode opcode) t⟩

/-- A run of no steps ends where it starts. -/
theorem run_zero (s : State) : core.run 0 s = .next s := rfl

/-- A property that every step keeps holds after a run of any length, and the run answers a next state. -/
theorem run_keeps (P : State → Prop) (hstep : ∀ s t, P s → step s = .next t → P t) (n : Nat) (s : State) (hs : P s) :
    ∃ t, core.run n s = .next t ∧ P t := by
  induction n generalizing s with
  | zero => exact ⟨s, run_zero s, hs⟩
  | succ n ih =>
    obtain ⟨u, hu⟩ := step_answers s
    obtain ⟨t, hrun, ht⟩ := ih u (hstep s u hs hu)
    exact ⟨t, (run_succ_of_step n s u hu).trans hrun, ht⟩

/-- The state an instruction answers lies inside the frame. -/
theorem exec_frame (i : Instr) (s t : State) (h : exec i s = .next t) : ExecFrame s t := by
  obtain ⟨u, hu, hframe⟩ := exec_answers i s
  obtain rfl : u = t := by simpa [hu] using h
  exact hframe

/-- `rst` is a level the host sets: no step moves it (log 6). -/
theorem step_rst (s t : State) (h : step s = .next t) : t.rst = s.rst := by
  obtain ⟨-, rfl⟩ | ⟨-, -, rfl⟩ | ⟨-, -, -, rfl⟩ | ⟨-, -, -, -, rfl⟩ | ⟨-, -, -, ip', -, hexec⟩ := step_cases s t h
  case inr.inr.inr.inr => simpa using (exec_frame _ _ _ hexec).rst
  all_goals simp

/-! ## Flags -/

/-- A flag's mask is its one bit (R27). -/
theorem Flag.mask_eq_twoPow (f : Flag) : f.mask = BitVec.twoPow 8 f.bit := by
  cases f <;> decide

theorem Flag.bit_lt (f : Flag) : f.bit < 8 := by cases f <;> decide

/-- Reading a flag is reading its bit. -/
theorem flagOf_eq_getLsbD (f : Flag) (F : Byte) : flagOf f F = F.getLsbD f.bit := by
  have hbit : BitVec.twoPow 8 f.bit ≠ 0 := by rw [← f.mask_eq_twoPow]; cases f <;> decide
  rw [flagOf, f.mask_eq_twoPow, BitVec.and_twoPow]
  cases F.getLsbD f.bit
  · simp
  · simpa using hbit

/-- `SetFlag` writes the flag's own bit and keeps every other (R30). -/
theorem setFlag_getLsbD (f : Flag) (v : Bool) (F : Byte) (k : Nat) :
    (setFlag f v F).getLsbD k = if k = f.bit then v else F.getLsbD k := by
  have hlt := f.bit_lt
  rw [setFlag, f.mask_eq_twoPow]
  by_cases hk : k = f.bit
  · cases v <;> simp [hk, hlt]
  · cases v
    · simpa [hk, Ne.symm hk] using BitVec.lt_of_getLsbD
    · simp [hk, Ne.symm hk]

/-- The bits of F after the three writes of a compare (R110). -/
theorem compareFlags_getLsbD (X Y F : Byte) (k : Nat) :
    (compareFlags X Y F).getLsbD k =
      if k = 3 then decide (X.toNat < Y.toNat)
      else if k = 2 then decide (X.toNat = Y.toNat)
      else if k = 1 then decide (X.toNat > Y.toNat)
      else F.getLsbD k := by
  rw [compareFlags, setFlag_getLsbD, setFlag_getLsbD, setFlag_getLsbD]
  rfl

/-- A compare's G, E and L do not depend on what F was. -/
theorem compareFlags_and_mask (X Y F F' : Byte) : compareFlags X Y F &&& 0x0E = compareFlags X Y F' &&& 0x0E := by
  apply BitVec.eq_of_getLsbD_eq
  intro k hk
  rw [BitVec.getLsbD_and, BitVec.getLsbD_and]
  by_cases h : k = 1 ∨ k = 2 ∨ k = 3
  · have hflag : (compareFlags X Y F).getLsbD k = (compareFlags X Y F').getLsbD k := by
      rw [compareFlags_getLsbD, compareFlags_getLsbD]
      obtain rfl | rfl | rfl := h <;> rfl
    rw [hflag]
  · have hmask : (0x0E : Byte).getLsbD k = false := by
      revert k; decide
    rw [hmask, Bool.and_false, Bool.and_false]

/-- From an F of at most one compare flag, a compare leaves exactly one (R114). -/
theorem compareFlags_legal (X Y F : Byte) (hF : F = 0x00 ∨ F = 0x02 ∨ F = 0x04 ∨ F = 0x08) :
    compareFlags X Y F = 0x02 ∨ compareFlags X Y F = 0x04 ∨ compareFlags X Y F = 0x08 := by
  obtain hlt | heq | hgt := Nat.lt_trichotomy X.toNat Y.toNat
  · right; right
    obtain rfl | rfl | rfl | rfl := hF <;> simp [compareFlags, hlt, hlt.ne, hlt.not_gt] <;> decide
  · right; left
    obtain rfl | rfl | rfl | rfl := hF <;> simp [compareFlags, heq] <;> decide
  · left
    obtain rfl | rfl | rfl | rfl := hF <;> simp [compareFlags, hgt, hgt.ne', hgt.not_gt] <;> decide

/-- Only a form that compares writes F, and it writes G, E and L (R29, R110). -/
theorem Form.apply_flags (f : Form) (s : State) :
    (f.apply s).flags =
      match f with
      | .compare p q => compareFlags (s.reg p) (s.reg q) s.flags
      | _ => s.flags := by
  cases f <;> simp [Form.apply, State.copyReg, State.updateReg, State.combineRegs, State.compareRegs]

/-! ## The invariant -/

/-- A running core's stop is legal whatever else it holds. -/
theorem State.stopLegal_of_running (s : State) (h : s.run = .running) : s.stopLegal := by
  simp [State.stopLegal, h]

/-- A stop at a fetch is legal at its recorded address, past the memory's end (R81). -/
theorem State.stopLegal_fetchOutOfBounds_iff (s : State) (addr : Address) (h : s.run = .stopped .fetchOutOfBounds addr) :
    s.stopLegal ↔ addr = s.ip ∧ s.dumpPort = none ∧ s.params.memSize ≤ s.ip.toNat := by
  simp [State.stopLegal, h]

/-- A stop at the top is legal at its recorded address, under `fault` and inside memory (R82). -/
theorem State.stopLegal_ipOverflow_iff (s : State) (addr : Address) (h : s.run = .stopped .ipOverflow addr) :
    s.stopLegal ↔ addr = s.ip ∧ s.dumpPort = none ∧ s.ip.toNat < s.params.memSize ∧
      s.ip.toNat + 1 = s.params.ipWidth.limit ∧ s.params.ipOverflow = .fault := by
  simp [State.stopLegal, h]

/-- A stopped core has `dump_valid` 0 already, so its step changes nothing (R85). -/
theorem State.Inv.clearDump_of_stopped {s : State} (hs : s.Inv) (hrun : s.run ≠ .running) : s.clearDump = s := by
  have hport : s.dumpPort = none := by
    have hstop := hs.stop_legal
    cases h : s.run with
    | running => exact absurd h hrun
    | stopped cause addr =>
      rw [State.stopLegal, h] at hstop
      obtain ⟨-, hport, -⟩ := hstop
      exact hport
  rw [State.clearDump, ← hport]

/-- The limit is positive. -/
theorem ipWidth_limit_pos (w : IpWidth) : 0 < w.limit := by cases w <;> decide

/-- Where the advance has a value, the value fits the instruction pointer (R82). -/
theorem advanceIp_lt (p : Params) (ip ip' : Address) (h : ip.toNat < p.ipWidth.limit) (ha : advanceIp p ip = some ip') :
    ip'.toNat < p.ipWidth.limit := by
  obtain ⟨hne, hsome⟩ | ⟨htop, -, hsome⟩ | ⟨-, -, hnone⟩ := advanceIp_cases p ip
  · obtain rfl : ip + 1 = ip' := by simpa [hsome] using ha
    rw [address_succ_toNat p ip (by omega)]
    omega
  · obtain rfl : 0 = ip' := by simpa [hsome] using ha
    exact ipWidth_limit_pos p.ipWidth
  · simp [hnone] at ha

/-- Reset leads to a state of the invariant (R170). -/
theorem State.Inv.applyReset {s : State} (hs : s.Inv) : s.applyReset.Inv :=
  { hs with
    ip_fits := ipWidth_limit_pos s.params.ipWidth
    flags_legal := .inl rfl
    stop_legal := trivial
    port_last := by simp }

theorem State.Inv.clearDump {s : State} (hs : s.Inv) (hrun : s.run = .running) : s.clearDump.Inv :=
  { hs with
    stop_legal := State.stopLegal_of_running _ hrun
    port_last := by simp }

theorem State.Inv.setIp {s : State} (hs : s.Inv) (hrun : s.run = .running) {ip : Address}
    (hip : ip.toNat < s.params.ipWidth.limit) : (s.setIp ip).Inv :=
  { hs with
    ip_fits := hip
    stop_legal := State.stopLegal_of_running _ hrun }

theorem State.Inv.stop {s : State} (hs : s.Inv) {cause : StopCause} (hstop : (s.stop cause).stopLegal) :
    (s.stop cause).Inv :=
  { hs with stop_legal := hstop }

theorem State.Inv.setReg {s : State} (hs : s.Inv) (r : Reg) (v : Byte) : (s.setReg r v).Inv := by
  cases r <;> exact { hs with }

theorem State.Inv.compareRegs {s : State} (hs : s.Inv) (p q : Reg) : (s.compareRegs p q).Inv :=
  { hs with flags_legal := .inr (compareFlags_legal _ _ _ hs.flags_legal) }

/-- The snapshot of a state in the invariant is a legal record (R31, R114, R140). -/
theorem State.Inv.snapshot_legal {s : State} (hs : s.Inv) : s.snapshot.legal s.params := by
  have hflags : ∀ F : Byte, F = 0x00 ∨ F = 0x02 ∨ F = 0x04 ∨ F = 0x08 →
      flagOf .C F = false ∧ ¬(flagOf .G F = true ∧ flagOf .E F = true) ∧ ¬(flagOf .G F = true ∧ flagOf .L F = true) ∧
        ¬(flagOf .E F = true ∧ flagOf .L F = true) := by
    rintro F (rfl | rfl | rfl | rfl) <;> decide
  obtain ⟨hC, hGE, hGL, hEL⟩ := hflags s.flags hs.flags_legal
  exact ⟨hC, hGE, hGL, hEL, hs.ip_fits⟩

theorem State.Inv.emitDump {s : State} (hs : s.Inv) (hrun : s.run = .running) {r : DumpRecord}
    (hr : r.legal s.params) : (s.emitDump r).Inv :=
  { hs with
    stop_legal := State.stopLegal_of_running _ hrun
    port_last := by simp
    trace_legal := by simpa [or_imp, forall_and] using ⟨hs.trace_legal, hr⟩ }

/-- Every form keeps the invariant in a running core. -/
theorem State.Inv.apply {s : State} (hs : s.Inv) (hrun : s.run = .running) (f : Form) : (f.apply s).Inv := by
  cases f with
  | idle => exact hs
  | copy dst src => exact hs.setReg dst _
  | update r f => exact hs.setReg r _
  | combine x y f => exact hs.setReg x _
  | compare p q => exact hs.compareRegs p q
  | emit => exact hs.emitDump hrun hs.snapshot_legal

/-- Settles O49: each of the five things a step can do keeps the invariant. -/
theorem stepKeepsTheInvariant : Obligations.StepKeepsTheInvariant := by
  intro s t hs hstep
  obtain ⟨-, rfl⟩ | ⟨-, hrun, rfl⟩ | ⟨-, hrun, hmem, rfl⟩ | ⟨-, hrun, hmem, hadv, rfl⟩ |
    ⟨-, hrun, -, ip', hadv, hexec⟩ := step_cases s t hstep
  case inl => exact hs.applyReset
  case inr.inl => rwa [hs.clearDump_of_stopped hrun]
  case inr.inr.inl =>
    exact (hs.clearDump hrun).stop ((State.stopLegal_fetchOutOfBounds_iff _ _ rfl).mpr ⟨rfl, rfl, hmem⟩)
  case inr.inr.inr.inl =>
    have htop : s.ip.toNat + 1 = s.params.ipWidth.limit ∧ s.params.ipOverflow = .fault := by
      simpa [hadv] using advanceIp_cases s.params s.ip
    exact (hs.clearDump hrun).stop ((State.stopLegal_ipOverflow_iff _ _ rfl).mpr ⟨rfl, rfl, hmem, htop⟩)
  case inr.inr.inr.inr =>
    have hip := advanceIp_lt s.params s.ip ip' hs.ip_fits hadv
    rw [exec_eq_next_iff] at hexec
    exact hexec ▸ ((hs.clearDump hrun).setIp hrun hip).apply hrun _

/-! ## How the state's updates commute -/

section
variable (s : State)

theorem State.setReg_setReg_same (r : Reg) (v w : Byte) : (s.setReg r v).setReg r w = s.setReg r w := by
  cases r <;> rfl

theorem State.setReg_comm {r q : Reg} (h : r ≠ q) (v w : Byte) :
    (s.setReg r v).setReg q w = (s.setReg q w).setReg r v := by
  cases r <;> cases q <;> simp [State.setReg] at h ⊢

@[simp] theorem State.setReg_setIp (r : Reg) (v : Byte) (ip : Address) :
    (s.setIp ip).setReg r v = (s.setReg r v).setIp ip := by
  cases r <;> rfl

@[simp] theorem State.setReg_setFlags (r : Reg) (v F : Byte) :
    (s.setFlags F).setReg r v = (s.setReg r v).setFlags F := by
  cases r <;> rfl

@[simp] theorem State.setFlags_setFlags (F G : Byte) : (s.setFlags F).setFlags G = s.setFlags G := rfl

@[simp] theorem State.setFlags_setIp (F : Byte) (ip : Address) :
    (s.setIp ip).setFlags F = (s.setFlags F).setIp ip := rfl

@[simp] theorem State.setReg_setFlags_flags (r : Reg) (v : Byte) :
    (s.setReg r v).setFlags s.flags = s.setReg r v := by
  cases r <;> rfl

@[simp] theorem State.setFlags_self : s.setFlags s.flags = s := rfl

end

/-! ## The operand forms by the registers they write and read -/

/-- The register a form writes. -/
def Form.target : Form → Option Reg
  | .copy dst _ => some dst
  | .update r _ => some r
  | .combine x _ _ => some x
  | .idle | .compare _ _ | .emit => none

/-- The registers a form reads. -/
def Form.sources : Form → List Reg
  | .idle => []
  | .copy _ src => [src]
  | .update r _ => [r]
  | .combine x y _ => [x, y]
  | .compare p q => [p, q]
  | .emit => [.A, .B, .C]

/-- The column "written by" of R22's table lists the targets of the forms. -/
theorem mem_writersOf_iff (i : Instr) (r : Reg) : i ∈ writersOf r ↔ (formOf i).target = some r := by
  cases r <;> cases i <;> decide

/-- The column "read by" of R22's table lists the sources of the forms. -/
theorem mem_readersOf_iff (i : Instr) (r : Reg) : i ∈ readersOf r ↔ r ∈ (formOf i).sources := by
  cases r <;> cases i <;> decide

/-- A form leaves every register but its target. -/
theorem Form.apply_reg_of_ne_target (f : Form) (s : State) (r : Reg) (h : f.target ≠ some r) :
    (f.apply s).reg r = s.reg r := by
  cases f with
  | idle => rfl
  | copy dst src => exact s.reg_setReg_of_ne dst r _ (by rintro rfl; exact h rfl)
  | update q f => exact s.reg_setReg_of_ne q r _ (by rintro rfl; exact h rfl)
  | combine x y f => exact s.reg_setReg_of_ne x r _ (by rintro rfl; exact h rfl)
  | compare p q => exact s.setFlags_reg _ r
  | emit => exact s.emitDump_reg _ r

/-- One register write over another: the later one stands if both name one register, else they commute. -/
theorem State.setReg_setReg (s : State) (r x : Reg) (v w : Byte) :
    (s.setReg r v).setReg x w = if some x = some r then s.setReg x w else (s.setReg x w).setReg r v := by
  by_cases h : x = r
  · subst h; simp [State.setReg_setReg_same]
  · simp [h, s.setReg_comm (Ne.symm h)]

/-- A form that does not read a register does the same whatever the register holds. -/
theorem Form.apply_setReg_of_notMem_sources (f : Form) (s : State) (r : Reg) (v : Byte) (h : r ∉ f.sources) :
    f.apply (s.setReg r v) = if f.target = some r then f.apply s else (f.apply s).setReg r v := by
  have hother : ∀ q ∈ f.sources, (s.setReg r v).reg q = s.reg q := fun q hq =>
    s.reg_setReg_of_ne r q v (by rintro rfl; exact h hq)
  cases f with
  | idle => simp [Form.apply, Form.target]
  | copy dst src =>
    have hsrc := hother src (by simp [Form.sources])
    simp only [Form.apply, State.copyReg, hsrc]
    exact s.setReg_setReg r dst v _
  | update q f =>
    have hq := hother q (by simp [Form.sources])
    simp only [Form.apply, State.updateReg, hq]
    exact s.setReg_setReg r q v _
  | combine x y f =>
    have hx := hother x (by simp [Form.sources])
    have hy := hother y (by simp [Form.sources])
    simp only [Form.apply, State.combineRegs, hx, hy]
    exact s.setReg_setReg r x v _
  | compare p q =>
    have hp := hother p (by simp [Form.sources])
    have hq := hother q (by simp [Form.sources])
    simp [Form.apply, Form.target, State.compareRegs, hp, hq]
  | emit => cases r <;> simp [Form.sources] at h

/-- A state with three different registers, over which every instruction changes the register it writes. -/
def distinctRegs : State := { State.reset with a := 1, b := 2, c := 4 }

theorem writer_changes_register (r : Reg) :
    ∀ i ∈ writersOf r, ((formOf i).apply distinctRegs).reg r ≠ distinctRegs.reg r := by
  cases r <;> decide

/-- Over the reset state, a 1 in a register shows in what each of the register's readers does. -/
theorem reader_sees_register (r : Reg) :
    ∀ i ∈ readersOf r, (formOf i).apply (State.reset.setReg r 1) ≠
      if i ∈ writersOf r then (formOf i).apply State.reset else ((formOf i).apply State.reset).setReg r 1 := by
  cases r <;> decide

/-- Settles O42: a form writes its target and reads its sources, and one state per column shows that the table lists no
instruction in vain. -/
theorem registersAreWrittenAndReadAsTabled : Obligations.RegistersAreWrittenAndReadAsTabled := by
  intro r i
  simp only [exec_eq_form, Host.Outcome.next.injEq, forall_eq']
  refine ⟨⟨fun hi s => ?written, fun hkept hi => ?writes⟩, ⟨fun hi s v => ?unread, fun hsame hi => ?reads⟩⟩
  case written =>
    rw [mem_writersOf_iff] at hi
    exact (formOf i).apply_reg_of_ne_target s r hi
  case writes => exact writer_changes_register r i hi (hkept distinctRegs)
  case unread =>
    rw [mem_readersOf_iff] at hi
    rw [(formOf i).apply_setReg_of_notMem_sources s r v hi]
    simp only [mem_writersOf_iff]
  case reads => exact reader_sees_register r i hi (hsame State.reset 1)

/-! ## The invariant at boot -/

/-- A loaded image lists no address past its end. -/
theorem Memory.ofImageFrom_within (image : List Byte) (start size : Nat) (h : start + image.length ≤ size) :
    Memory.within size (Memory.ofImageFrom start image) = true := by
  induction image generalizing start with
  | nil => rfl
  | cons v image ih =>
    rw [List.length_cons] at h
    have htail := ih (start + 1) (by omega)
    unfold Memory.ofImageFrom
    split
    · exact htail
    · rw [Memory.within, List.all_cons, Bool.and_eq_true]
      exact ⟨decide_eq_true (by omega), htail⟩

/-- Settles O48: the parameters and the image are legal by hypothesis, and the rest is at its reset value. -/
theorem bootMeetsTheInvariant : Obligations.BootMeetsTheInvariant := by
  intro p image hp hfits
  have hlen : image.length ≤ p.memSize := of_decide_eq_true hfits
  exact {
    params_legal := hp
    mem_canonical := Memory.ofImage_wf image
    mem_within := Memory.ofImageFrom_within image 0 p.memSize (by omega)
    ip_fits := ipWidth_limit_pos p.ipWidth
    flags_legal := .inl rfl
    stop_legal := State.stopLegal_of_running _ rfl
    port_last := fun r h => by cases h
    trace_legal := fun r h => by cases h }

/-- Settles O47: the reset state is the boot of the empty image, which fits its default parameters. -/
theorem resetMeetsTheInvariant : Obligations.ResetMeetsTheInvariant := by
  obtain ⟨hboot, -⟩ := resetStateIsTheEmptyBoot
  rw [Obligations.ResetMeetsTheInvariant, hboot]
  exact bootMeetsTheInvariant _ [] (by decide) (by decide)

/-! ## Boot and memory -/

@[simp] theorem State.boot_flags (p : Params) (image : List Byte) : (State.boot p image).flags = 0 := rfl

@[simp] theorem State.boot_rst (p : Params) (image : List Byte) : (State.boot p image).rst = false := rfl

/-- What a booted core's memory reads as: the image, then the zero fill (R36, R44). -/
theorem State.boot_readByte (p : Params) (image : List Byte) (k : Nat) (h : k < p.memSize) :
    (State.boot p image).readByte k = some (image.getD k 0) := by
  rw [State.readByte_of_lt _ k h, ← Memory.byte_ofImageFrom image 0 k, Nat.zero_add]
  rfl

/-- Settles O1: the registers are those of the reset state, and memory is the loaded image. -/
theorem bootStateIsResetState : Obligations.BootStateIsResetState := by
  intro p image hfits
  have hlen : image.length ≤ p.memSize := of_decide_eq_true hfits
  refine ⟨rfl, rfl, rfl, rfl, rfl, rfl, rfl, fun k v hk => ?image, fun k hle hlt => ?fill⟩
  case image =>
    obtain ⟨hlt, -⟩ := List.getElem?_eq_some_iff.mp hk
    rw [State.boot_readByte p image k (by omega), List.getD_eq_getElem?_getD, hk, Option.getD_some]
  case fill =>
    rw [State.boot_readByte p image k hlt, List.getD_eq_default _ _ hle]

theorem Memory.byte_cons_self (k : Nat) (v : Byte) (m : Memory) : Memory.byte ((k, v) :: m) k = v := if_pos rfl

theorem Memory.byte_cons_of_ne {k a : Nat} (h : k ≠ a) (v : Byte) (m : Memory) :
    Memory.byte ((k, v) :: m) a = m.byte a := if_neg h

/-- Memories with the same bytes list the same addresses: none lists one below another's canonical start. -/
theorem Memory.le_of_byte_eq {m m' : Memory} {low k : Nat} {v : Byte} (hv : v ≠ 0)
    (hm' : Memory.wfFrom low m' = true) (h : ∀ a, Memory.byte ((k, v) :: m) a = m'.byte a) : low ≤ k := by
  by_contra hlt
  have hzero := Memory.byte_of_lt m' low k hm' (by omega)
  rw [← h k, Memory.byte_cons_self] at hzero
  exact hv hzero

/-- Canonical memories with the same bytes are the same data. -/
theorem Memory.eq_of_byte_eq (m m' : Memory) (low : Nat) (hm : Memory.wfFrom low m = true)
    (hm' : Memory.wfFrom low m' = true) (h : ∀ a, m.byte a = m'.byte a) : m = m' := by
  induction m generalizing low m' with
  | nil =>
    cases m' with
    | nil => rfl
    | cons cell' m' =>
      obtain ⟨k', v'⟩ := cell'
      obtain ⟨-, hv', -⟩ := (Memory.wfFrom_cons low k' v' m').mp hm'
      exact absurd (Memory.le_of_byte_eq hv' (Memory.wfFrom_nil (k' + 1)) fun a => (h a).symm) (by omega)
  | cons cell m ih =>
    obtain ⟨k, v⟩ := cell
    obtain ⟨-, hv, htl⟩ := (Memory.wfFrom_cons low k v m).mp hm
    cases m' with
    | nil => exact absurd (Memory.le_of_byte_eq hv (Memory.wfFrom_nil (k + 1)) h) (by omega)
    | cons cell' m' =>
      obtain ⟨k', v'⟩ := cell'
      obtain ⟨-, hv', htl'⟩ := (Memory.wfFrom_cons low k' v' m').mp hm'
      have hkk' := Memory.le_of_byte_eq hv ((Memory.wfFrom_cons k' k' v' m').mpr ⟨le_refl k', hv', htl'⟩) h
      have hk'k := Memory.le_of_byte_eq hv' ((Memory.wfFrom_cons k k v m).mpr ⟨le_refl k, hv, htl⟩) fun a => (h a).symm
      obtain rfl : k = k' := by omega
      obtain rfl : v = v' := by simpa [Memory.byte_cons_self] using h k
      have hbytes : ∀ a, Memory.byte m a = Memory.byte m' a := by
        intro a
        by_cases ha : k = a
        · rw [Memory.byte_of_lt m (k + 1) a htl (by omega), Memory.byte_of_lt m' (k + 1) a htl' (by omega)]
        · simpa [Memory.byte_cons_of_ne ha] using h a
      rw [ih m' (k + 1) htl htl' hbytes]

/-- Settles O11: the laws of a write, with canonical memories determined by their bytes. -/
theorem memoryWriteKeepsCanonicalForm : Obligations.MemoryWriteKeepsCanonicalForm := by
  refine ⟨fun m a v hm => ⟨Memory.write_wf m a v hm, fun k => ?byte⟩, Memory.ofImage_wf, fun m m' hm hm' =>
    Memory.eq_of_byte_eq m m' 0 hm hm'⟩
  case byte =>
    split
    · subst k; exact Memory.byte_write_same m 0 a v hm
    · exact Memory.byte_write_of_ne m 0 a k v hm ‹_›

/-! ## The instruction pointer -/

/-- The step of a running core that can fetch and advance runs the fetched opcode with `ip` advanced (R80). -/
theorem step_eq_exec (s : State) (opcode : Byte) (ip : Address) (hrst : s.rst = false) (hrun : s.run = .running)
    (hread : s.readByte s.ip.toNat = some opcode) (hadv : advanceIp s.params s.ip = some ip) :
    step s = exec (decode opcode) (s.clearDump.setIp ip) := by
  simp only [step, State.issue, hrst, hrun, hread, hadv, Bool.false_eq_true, if_false]

/-- Below the top the advance is by 1 (R82). -/
theorem advanceIp_of_lt (p : Params) (ip : Address) (h : ip.toNat + 1 < p.ipWidth.limit) :
    advanceIp p ip = some (ip + 1) := if_neg h.ne

/-- The step of a ready core (R80). -/
theorem step_of_ready (s : State) (opcode : Byte) (h : Ready s opcode) :
    step s = exec (decode opcode) (s.clearDump.setIp (s.ip + 1)) := by
  obtain ⟨hrst, hrun, hread, htop⟩ := h
  exact step_eq_exec s opcode (s.ip + 1) hrst hrun hread (advanceIp_of_lt s.params s.ip htop)

/-- Unless it emits a record, a form does the same at any `ip`. -/
theorem Form.apply_setIp (f : Form) (hf : f ≠ .emit) (s : State) (ip : Address) :
    f.apply (s.setIp ip) = (f.apply s).setIp ip := by
  cases f with
  | emit => exact absurd rfl hf
  | _ => simp [Form.apply, State.copyReg, State.updateReg, State.combineRegs, State.compareRegs]

/-- With `rst` released, a step leaves `ip` or advances it (R24). -/
theorem step_ip (s t : State) (hrst : s.rst = false) (h : step s = .next t) :
    t.ip = s.ip ∨ advanceIp s.params s.ip = some t.ip := by
  obtain ⟨hrst', -⟩ | ⟨-, -, rfl⟩ | ⟨-, -, -, rfl⟩ | ⟨-, -, -, -, rfl⟩ | ⟨-, -, -, ip', hadv, hexec⟩ := step_cases s t h
  case inl => simp [hrst] at hrst'
  case inr.inr.inr.inr =>
    have hip : t.ip = ip' := by simpa using (exec_frame _ _ _ hexec).ip
    exact .inr (hip ▸ hadv)
  all_goals exact .inl rfl

/-- Settles O20: the step's own advance, the frame of `exec`, and that a form of no DUMP ignores `ip`. -/
theorem instructionPointerAdvancesByOneAndIsNotRead : Obligations.InstructionPointerAdvancesByOneAndIsNotRead := by
  refine ⟨fun s opcode hready => ?advance, step_ip, State.applyReset_ip, fun i s t h => (exec_frame i s t h).ip,
    fun i s t v hi h => ?unread, fun s => ⟨_, s.snapshot, rfl, rfl, rfl⟩⟩
  case advance =>
    have hstep := step_of_ready s opcode hready
    obtain ⟨-, -, -, htop⟩ := hready
    obtain ⟨t, ht, hframe⟩ := exec_answers (decode opcode) (s.clearDump.setIp (s.ip + 1))
    refine ⟨hstep, t, hstep.trans ht, ?_⟩
    rw [hframe.ip, State.setIp_ip, address_succ_toNat s.params s.ip htop]
  case unread =>
    rw [exec_eq_next_iff] at h ⊢
    rw [h, Form.apply_setIp _ (mt (formOf_eq_emit_iff i).mp hi)]

/-! ## What writes and what reads F -/

/-- Settles O44: the layout by computation, the reading of a flag by its one-bit mask. -/
theorem flagsSitAtTheirBits : Obligations.FlagsSitAtTheirBits :=
  ⟨rfl, rfl, rfl, rfl, rfl, rfl, rfl, rfl, flagOf_eq_getLsbD⟩

/-- An instruction that is no compare leaves F (R29). -/
theorem apply_flags_of_notMem_compares (i : Instr) (hi : i ∉ compares) (s : State) :
    ((formOf i).apply s).flags = s.flags := by
  rw [mem_compares_iff] at hi
  rw [Form.apply_flags]
  split
  · exact absurd ⟨_, _, ‹_›⟩ hi
  · rfl

/-- No form writes a bit of F but G, E and L (R29). -/
theorem Form.apply_flags_getLsbD (f : Form) (s : State) (k : Nat) (hG : k ≠ 1) (hE : k ≠ 2) (hL : k ≠ 3) :
    (f.apply s).flags.getLsbD k = s.flags.getLsbD k := by
  rw [Form.apply_flags]
  cases f with
  | compare p q => simp [compareFlags_getLsbD, hG, hE, hL]
  | _ => rfl

/-- Settles O43: the writes of a compare are the three of R110, and no other form writes F. -/
theorem setFlagWritesOneBit : Obligations.SetFlagWritesOneBit := by
  refine ⟨fun f v F => rfl, fun f v F => ⟨?own, fun k hk => ?other⟩, fun i s t h => ?writes⟩
  case own => rw [setFlag_getLsbD, if_pos rfl]
  case other => rw [setFlag_getLsbD, if_neg hk]
  case writes =>
    rw [exec_eq_next_iff] at h
    rw [h, Form.apply_flags]
    split
    case h_1 p q _ =>
      exact ⟨[(.G, decide ((s.reg p).toNat > (s.reg q).toNat)), (.E, decide ((s.reg p).toNat = (s.reg q).toNat)),
        (.L, decide ((s.reg p).toNat < (s.reg q).toNat))], rfl⟩
    case h_2 => exact ⟨[], rfl⟩

/-- Unless it emits a record, a form over another F leaves the same state but for F. -/
theorem Form.apply_setFlags (f : Form) (hf : f ≠ .emit) (s : State) (F : Byte) :
    (f.apply (s.setFlags F)).setFlags (f.apply s).flags = f.apply s := by
  cases f with
  | emit => exact absurd rfl hf
  | _ => simp [Form.apply, State.copyReg, State.updateReg, State.combineRegs, State.compareRegs]

/-- A compare writes the same G, E and L over any F. -/
theorem apply_setFlags_and_mask (i : Instr) (hi : i ∈ compares) (s : State) (F : Byte) :
    ((formOf i).apply (s.setFlags F)).flags &&& 0x0E = ((formOf i).apply s).flags &&& 0x0E := by
  obtain ⟨p, q, hform⟩ := (mem_compares_iff i).mp hi
  rw [hform]
  simpa [Form.apply_flags] using compareFlags_and_mask (s.reg p) (s.reg q) F s.flags

/-- The four writes that set the named flags of F to the bits of a byte. -/
def flagWrites (F : Byte) : List (Flag × Bool) :=
  [(.C, F.getLsbD 0), (.G, F.getLsbD 1), (.E, F.getLsbD 2), (.L, F.getLsbD 3)]

/-- Every F with bits 7:4 clear is reached from 0 by writes of flags. -/
theorem foldl_flagWrites (F : Byte) (hF : F &&& 0xF0 = 0) :
    (flagWrites F).foldl (fun G w => setFlag w.1 w.2 G) 0x00 = F := by
  apply BitVec.eq_of_getLsbD_eq
  intro k hk
  simp only [flagWrites, List.foldl, setFlag_getLsbD, Flag.bit]
  obtain hnamed | hunnamed := Nat.lt_or_ge k 4
  · interval_cases k <;> rfl
  · have hbit : F.getLsbD k = false := by
      have hmasked : (F &&& 0xF0).getLsbD k = false := by rw [hF]; exact BitVec.getLsbD_zero
      have hmask : ∀ k < 8, k ≥ 4 → (0xF0 : Byte).getLsbD k = true := by decide
      rwa [BitVec.getLsbD_and, hmask k hk hunnamed, Bool.and_true] at hmasked
    simp [hbit, show k ≠ 0 ∧ k ≠ 1 ∧ k ≠ 2 ∧ k ≠ 3 by omega]

/-- Settles O45: the forms but the compares keep F, and all but DUMP's ignore it. -/
theorem onlyComparesWriteFlagsAndOnlyDumpReadsThem : Obligations.OnlyComparesWriteFlagsAndOnlyDumpReadsThem := by
  refine ⟨fun i s hi => ⟨_, exec_eq_form i s, apply_flags_of_notMem_compares i hi s⟩,
    fun i _ s => ⟨_, exec_eq_form i s, (formOf i).apply_flags_getLsbD s⟩, fun i s t F hi h => ?unread,
    fun s => ?record, fun F hF => ⟨flagWrites F, (foldl_flagWrites F hF).symm⟩⟩
  case unread =>
    rw [exec_eq_next_iff] at h
    subst h
    exact ⟨_, exec_eq_form i _, (formOf i).apply_setFlags (mt (formOf_eq_emit_iff i).mp hi) s F,
      fun hmem => apply_setFlags_and_mask i hmem s F, fun hmem => apply_flags_of_notMem_compares i hmem _⟩
  case record =>
    exact ⟨_, s.snapshot, exec_eq_form .dump s, rfl, flagOf_eq_getLsbD .C _, flagOf_eq_getLsbD .G _,
      flagOf_eq_getLsbD .E _, flagOf_eq_getLsbD .L _⟩

/-- No step with `rst` released changes F.C (R31). -/
theorem step_flags_carry (s t : State) (hrst : s.rst = false) (h : step s = .next t) :
    t.flags.getLsbD 0 = s.flags.getLsbD 0 := by
  obtain ⟨hrst', -⟩ | ⟨-, -, rfl⟩ | ⟨-, -, -, rfl⟩ | ⟨-, -, -, -, rfl⟩ | ⟨-, -, -, ip', -, hexec⟩ := step_cases s t h
  case inl => simp [hrst] at hrst'
  case inr.inr.inr.inr =>
    rw [exec_eq_next_iff] at hexec
    rw [hexec, Form.apply_flags_getLsbD _ _ 0 (by decide) (by decide) (by decide)]
    rfl
  all_goals rfl

/-- The increments, additions and subtractions are no compares. -/
theorem arithmetic_notMem_compares (i : Instr)
    (h : (∃ r, (i, r) ∈ increments) ∨ ∃ x y, (i, x, y) ∈ additions ++ subtractions) : i ∉ compares := by
  have hinc : ∀ ir ∈ increments, ir.1 ∉ compares := by decide
  have harith : ∀ ixy ∈ additions ++ subtractions, ixy.1 ∉ compares := by decide
  obtain ⟨r, h⟩ | ⟨x, y, h⟩ := h
  · exact hinc _ h
  · exact harith _ h

/-- Settles O46: a released `rst` and a clear F.C are kept together by every step, and boot has both. -/
theorem carryFlagIsNeverWritten : Obligations.CarryFlagIsNeverWritten := by
  refine ⟨step_flags_carry, fun n p image => ?run, fun i hi s =>
    ⟨_, exec_eq_form i s, apply_flags_of_notMem_compares i (arithmetic_notMem_compares i hi) s⟩⟩
  case run =>
    have hkeeps : ∀ s t : State, s.rst = false ∧ s.flags.getLsbD 0 = false → step s = .next t →
        t.rst = false ∧ t.flags.getLsbD 0 = false := fun s t ⟨hrst, hcarry⟩ hstep =>
      ⟨(step_rst s t hstep).trans hrst, (step_flags_carry s t hrst hstep).trans hcarry⟩
    obtain ⟨t, hrun, -, hcarry⟩ := run_keeps _ hkeeps n (State.boot p image) (by simp)
    exact ⟨t, hrun, hcarry⟩

/-! ## The outputs -/

/-- Settles O7: each output is a field of the state or the bounds check of a fetch. -/
theorem outputsShowTheState : Obligations.OutputsShowTheState := by
  intro s
  have hoob : s.fetchOob = true ↔ s.params.memSize ≤ s.ip.toNat := decide_eq_true_iff
  refine ⟨rfl, hoob, fun h => ?data, fun h => ?noData, Option.isSome_iff_exists, decide_eq_true_iff,
    fun cause addr hrun => ?stopped, fun hrun => ?running⟩
  case data =>
    rw [← Bool.not_eq_true, hoob, not_le] at h
    exact s.readByte_of_lt _ h
  case noData => exact s.readByte_of_le _ (hoob.mp h)
  case stopped =>
    refine ⟨by rw [State.stopAddr, hrun], ?_, ?_⟩ <;> rintro rfl <;> rw [State.stopCause, hrun] <;> rfl
  case running => exact ⟨by rw [State.stopAddr, hrun], by rw [State.stopCause, hrun]⟩

end Sys2Proof.Machine

namespace Sys2Proof.Machine

/-! ## What a step does, by its case -/

/-- Under `rst` a step applies reset again (R170; log 6). -/
theorem step_of_rst (s : State) (hrst : s.rst = true) : step s = .next s.applyReset := by
  simp only [step, State.issue, hrst, if_true]

/-- A stopped core's step only clears `dump_valid` (R85, R143). -/
theorem step_of_stopped (s : State) (hrst : s.rst = false) (hrun : s.run ≠ .running) : step s = .next s.clearDump := by
  cases h : s.run with
  | running => exact absurd h hrun
  | stopped cause addr => simp only [step, State.issue, hrst, h, Bool.false_eq_true, if_false]

/-- The step of a running core whose fetch answers no byte stops there (R81). -/
theorem step_of_readByte_none (s : State) (hrst : s.rst = false) (hrun : s.run = .running)
    (hread : s.readByte s.ip.toNat = none) : step s = .next (s.clearDump.stop .fetchOutOfBounds) := by
  simp only [step, State.issue, hrst, hrun, hread, Bool.false_eq_true, if_false]

/-- The step of a running core that fetches but cannot advance stops there (R82). -/
theorem step_of_advanceIp_none (s : State) (opcode : Byte) (hrst : s.rst = false) (hrun : s.run = .running)
    (hread : s.readByte s.ip.toNat = some opcode) (hadv : advanceIp s.params s.ip = none) :
    step s = .next (s.clearDump.stop .ipOverflow) := by
  simp only [step, State.issue, hrst, hrun, hread, hadv, Bool.false_eq_true, if_false]

/-! ## Program memory stands -/

/-- No step writes program memory or the parameters (R43, R50; log 1). -/
theorem step_mem_params (s t : State) (h : step s = .next t) : t.mem = s.mem ∧ t.params = s.params := by
  obtain ⟨-, rfl⟩ | ⟨-, -, rfl⟩ | ⟨-, -, -, rfl⟩ | ⟨-, -, -, -, rfl⟩ | ⟨-, -, -, ip', -, hexec⟩ := step_cases s t h
  case inr.inr.inr.inr => exact ⟨(exec_frame _ _ _ hexec).mem, (exec_frame _ _ _ hexec).params⟩
  all_goals exact ⟨rfl, rfl⟩

/-- A read depends on the parameters and program memory only (R41). -/
theorem State.readByte_congr {s t : State} (hmem : t.mem = s.mem) (hparams : t.params = s.params) (addr : Nat) :
    t.readByte addr = s.readByte addr := by
  rw [State.readByte, State.readByte, hmem, hparams]

/-- Every address reads after a step as before it (R43). -/
theorem step_readByte (s t : State) (h : step s = .next t) (addr : Nat) : t.readByte addr = s.readByte addr := by
  obtain ⟨hmem, hparams⟩ := step_mem_params s t h
  exact State.readByte_congr hmem hparams addr

/-- Settles O9: the frame of `exec` and the one of a step, which a run keeps. -/
theorem programMemoryIsReadOnlyWhileRunning : Obligations.ProgramMemoryIsReadOnlyWhileRunning := by
  refine ⟨fun i s t h => ?exec, step_readByte, fun n s t h => ?run⟩
  case exec =>
    have hframe := exec_frame i s t h
    exact State.readByte_congr hframe.mem hframe.params
  case run =>
    have hkeeps : ∀ u v : State, (∀ a, u.readByte a = s.readByte a) → step u = .next v →
        ∀ a, v.readByte a = s.readByte a := fun u v hu hstep a => (step_readByte u v hstep a).trans (hu a)
    obtain ⟨u, hrun, hu⟩ := run_keeps _ hkeeps n s fun _ => rfl
    obtain rfl : u = t := Host.Outcome.next.inj (hrun.symm.trans h)
    exact hu

/-! ## The step over another program memory -/

@[simp] theorem State.setReg_setMem (s : State) (r : Reg) (v : Byte) (m : Memory) :
    (s.setMem m).setReg r v = (s.setReg r v).setMem m := by
  cases r <;> rfl

/-- No form reads program memory (R41). -/
theorem Form.apply_setMem (f : Form) (s : State) (m : Memory) : f.apply (s.setMem m) = (f.apply s).setMem m := by
  cases f with
  | idle | emit => rfl
  | compare p q => simp only [Form.apply, State.compareRegs, State.setMem_reg]; rfl
  | _ => simp [Form.apply, State.copyReg, State.updateReg, State.combineRegs]

/-- A step does the same over any program memory with the same byte at `ip`: the fetch is its only read (R41). -/
theorem step_setMem (s t : State) (m : Memory) (hread : (s.setMem m).readByte s.ip.toNat = s.readByte s.ip.toNat)
    (h : step s = .next t) : step (s.setMem m) = .next (t.setMem m) := by
  obtain ⟨hrst, rfl⟩ | ⟨hrst, hrun, rfl⟩ | ⟨hrst, hrun, hmem, rfl⟩ | ⟨hrst, hrun, hmem, hadv, rfl⟩ |
    ⟨hrst, hrun, hmem, ip', hadv, hexec⟩ := step_cases s t h
  · exact step_of_rst (s.setMem m) hrst
  · exact step_of_stopped (s.setMem m) hrst hrun
  · exact step_of_readByte_none (s.setMem m) hrst hrun (hread.trans (s.readByte_of_le _ hmem))
  · exact step_of_advanceIp_none (s.setMem m) _ hrst hrun (hread.trans (s.readByte_of_lt _ hmem)) hadv
  · rw [exec_eq_next_iff] at hexec
    rw [step_eq_exec (s.setMem m) _ ip' hrst hrun (hread.trans (s.readByte_of_lt _ hmem)) hadv, exec_eq_next_iff, hexec,
      ← Form.apply_setMem]
    rfl

/-- Settles O8: the bounds of a read, the frame of a step, and the step over another memory. -/
theorem fetchIsTheOnlyMemoryAccess : Obligations.FetchIsTheOnlyMemoryAccess := by
  refine ⟨State.readByte_of_le, State.readByte_of_lt, fun s hrst hrun hread => ?stop, step_readByte,
    fun s m hread => ?other⟩
  case stop => exact ⟨_, step_of_readByte_none s hrst hrun hread, rfl⟩
  case other =>
    obtain ⟨t, ht⟩ := step_answers s
    exact ⟨t, ht, step_setMem s t m hread ht⟩

/-! ## The addresses a run fetches from -/

/-- A run does the same over two program memories that agree below `2^IP_WIDTH` (R42). -/
theorem run_setMem (n : Nat) (s : State) (m : Memory) (hs : s.Inv)
    (hread : ∀ a, a < s.params.ipWidth.limit → (s.setMem m).readByte a = s.readByte a) :
    ∃ t, core.run n s = .next t ∧ core.run n (s.setMem m) = .next (t.setMem m) := by
  induction n generalizing s with
  | zero => exact ⟨s, run_zero s, run_zero _⟩
  | succ n ih =>
    obtain ⟨u, hstep⟩ := step_answers s
    have hstep' := step_setMem s u m (hread _ hs.ip_fits) hstep
    obtain ⟨-, hparams⟩ := step_mem_params s u hstep
    have hread' : ∀ a, a < u.params.ipWidth.limit → (u.setMem m).readByte a = u.readByte a := fun a ha => by
      rw [step_readByte _ _ hstep', step_readByte _ _ hstep, hread a (hparams ▸ ha)]
    obtain ⟨t, hrun, hrun'⟩ := ih u (stepKeepsTheInvariant s u hs hstep) hread'
    exact ⟨t, (run_succ_of_step n s u hstep).trans hrun, (run_succ_of_step n _ _ hstep').trans hrun'⟩

/-- A running core advances by 1 each step, whatever it fetches, as long as the addresses lie below both limits (R24, R82). -/
theorem run_ip_of_lt (n : Nat) (s : State) (hrst : s.rst = false) (hrun : s.run = .running)
    (hmem : s.ip.toNat + n ≤ s.params.memSize) (htop : s.ip.toNat + n < s.params.ipWidth.limit) :
    ∃ t, core.run n s = .next t ∧ t.ip.toNat = s.ip.toNat + n ∧ t.rst = false ∧ t.run = .running ∧ t.params = s.params := by
  induction n generalizing s with
  | zero => exact ⟨s, run_zero s, rfl, hrst, hrun, rfl⟩
  | succ n ih =>
    have hready : Ready s (s.mem.byte s.ip.toNat) := ⟨hrst, hrun, s.readByte_of_lt _ (by omega), by omega⟩
    obtain ⟨u, hu, hframe⟩ := exec_answers (decode (s.mem.byte s.ip.toNat)) (s.clearDump.setIp (s.ip + 1))
    have hstep : step s = .next u := (step_of_ready s _ hready).trans hu
    have hip : u.ip.toNat = s.ip.toNat + 1 := by
      rw [hframe.ip, State.setIp_ip, address_succ_toNat s.params s.ip (by omega)]
    have hparams : u.params = s.params := hframe.params
    obtain ⟨t, ht, htip, htrst, htrun, htparams⟩ :=
      ih u (hframe.rst.trans hrst) (hframe.run.trans hrun) (by rw [hparams]; omega) (by rw [hparams]; omega)
    exact ⟨t, (run_succ_of_step n s u hstep).trans ht, by omega, htrst, htrun, htparams.trans hparams⟩

/-- Settles O10: the two guards of a fetch, a run over agreeing memories, and the run of `a` steps from boot to address `a`. -/
theorem reachableAddressesLieBelowBothLimits : Obligations.ReachableAddressesLieBelowBothLimits := by
  refine ⟨fun s opcode t hs hissue => ⟨?memory, hs.ip_fits⟩, run_setMem, fun p a hmem htop => ?reached⟩
  case memory =>
    obtain ⟨-, h⟩ | ⟨-, -, h⟩ | ⟨-, -, -, h⟩ | ⟨-, -, -, -, h⟩ | ⟨-, -, hlt, -⟩ := s.issue_cases
    case inr.inr.inr.inr => exact hlt
    all_goals simp [h] at hissue
  case reached =>
    have hip : (State.boot p []).ip.toNat = 0 := rfl
    have hparams : (State.boot p []).params = p := rfl
    obtain ⟨t, hrun, htip, -, -, htparams⟩ :=
      run_ip_of_lt a (State.boot p []) rfl rfl (by rw [hip, hparams]; omega) (by rw [hip, hparams]; omega)
    have hta : t.ip.toNat = a := by omega
    have hlt : t.ip.toNat < t.params.memSize := by rwa [hta, htparams, hparams]
    exact ⟨a, t, hrun, hta, decide_eq_false (not_le.mpr hlt)⟩

end Sys2Proof.Machine

namespace Sys2Proof

/-! ## Encodings -/

/-- The encoding facts of every instruction, from those of each. -/
theorem encoding_statement (i : Instr) : Laws.Encoding.Statement i := by
  cases i
  exacts [Laws.Encoding.nop, Laws.Encoding.movab, Laws.Encoding.movba, Laws.Encoding.movac, Laws.Encoding.movbc,
    Laws.Encoding.movca, Laws.Encoding.movcb, Laws.Encoding.inca, Laws.Encoding.incb, Laws.Encoding.incc,
    Laws.Encoding.cmpab, Laws.Encoding.cmpac, Laws.Encoding.cmpbc, Laws.Encoding.addab, Laws.Encoding.addac,
    Laws.Encoding.addbc, Laws.Encoding.addba, Laws.Encoding.addca, Laws.Encoding.addcb, Laws.Encoding.subab,
    Laws.Encoding.subac, Laws.Encoding.subba, Laws.Encoding.subbc, Laws.Encoding.subca, Laws.Encoding.subcb,
    Laws.Encoding.dump]

@[simp] theorem decode_encode (i : Instr) : decode (encode i) = i := by
  obtain ⟨-, hdecode, -⟩ := encoding_statement i
  exact hdecode

theorem encode_named (i : Instr) : (encode i).toNat ≤ 0x18 ∨ encode i = 0xFF := by
  obtain ⟨-, -, hnamed⟩ := encoding_statement i
  exact hnamed

/-- The bytes from 0x19 on decode to DUMP (R62, R65). -/
theorem decode_of_ge (b : Byte) (h : 0x19 ≤ b.toNat) : decode b = .dump := by
  unfold decode
  split
  case h_26 => rfl
  all_goals omega

/-- The opcodes 0x00 to 0x18 are their instructions' own (R64). -/
theorem encode_decode_of_le (b : Byte) (h : b.toNat ≤ 0x18) : encode (decode b) = b := by
  have hlisted : ∀ n ≤ 0x18, encode (decode (BitVec.ofNat 8 n)) = BitVec.ofNat 8 n := by decide
  simpa using hlisted b.toNat h

@[simp] theorem length_assemble (program : List Instr) : (assemble program).length = program.length :=
  List.length_map encode

@[simp] theorem getElem?_assemble (program : List Instr) (k : Nat) :
    (assemble program)[k]? = program[k]?.map encode :=
  List.getElem?_map

end Sys2Proof

namespace Sys2Proof.Machine

/-- Settles O16: the loaded image is found by `bootStateIsResetState` at its positions, and decoding undoes encoding. -/
theorem assembledProgramDecodesInPlace : Obligations.AssembledProgramDecodesInPlace := by
  intro p program hfits
  obtain ⟨-, -, -, -, -, -, -, himage, hfill⟩ := bootStateIsResetState p (assemble program) hfits
  refine ⟨fun k i hi => ?instruction, fun k hle hlt => ?fill, (State.boot p (assemble program)).readByte_of_le⟩
  case instruction =>
    have hbyte : (assemble program)[k]? = some (encode i) := by rw [getElem?_assemble, hi, Option.map_some]
    rw [himage k _ hbyte, Option.map_some, decode_encode]
  case fill =>
    rw [hfill k (by rwa [length_assemble]) hlt]
    exact congrArg some (decode_encode .nop)

/-- Settles O13: decoding undoes encoding, so a byte re-encoded to itself is an instruction's own opcode. -/
theorem encodeAndDecodeAgree : Obligations.EncodeAndDecodeAgree := by
  refine ⟨fun i _ => decode_encode i, fun b => ⟨fun hb => ?named, fun hb => ?own⟩⟩
  case named =>
    rw [← hb]
    exact encode_named (decode b)
  case own =>
    obtain hle | rfl := hb
    · exact encode_decode_of_le b hle
    · exact congrArg encode (decode_encode .dump)

/-- Settles O12: the named opcodes decode by computation, and every byte from 0x19 on is DUMP. -/
theorem decoderFollowsTheOpcodeMap : Obligations.DecoderFollowsTheOpcodeMap :=
  ⟨rfl, rfl, rfl, rfl, rfl, rfl, rfl, rfl, rfl, rfl, rfl, rfl, rfl, rfl, rfl, rfl, rfl, rfl, rfl, rfl, rfl, rfl, rfl, rfl, rfl,
    rfl, fun b h _ => decode_of_ge b h⟩

end Sys2Proof.Machine

namespace Sys2Proof

/-! ## The match/mask pairs of R65

The mask of each row leaves its low bits free, so that a row matches an interval of bytes; the twelve intervals stand end to
end. -/

/-- A mask of high bits rounds down to a multiple of a power of 2. -/
theorem and_allOnes_shiftLeft_toNat {w : Nat} (x : BitVec w) (k : Nat) :
    (x &&& BitVec.allOnes w <<< k).toNat = x.toNat / 2 ^ k * 2 ^ k := by
  have hle : x.toNat / 2 ^ k * 2 ^ k ≤ x.toNat := Nat.div_mul_le_self _ _
  rw [← BitVec.shiftLeft_ushiftRight, BitVec.toNat_shiftLeft, BitVec.toNat_ushiftRight, Nat.shiftRight_eq_div_pow,
    Nat.shiftLeft_eq, Nat.mod_eq_of_lt (hle.trans_lt x.isLt)]

/-- A number rounds down to a given multiple of `d` exactly when it is one of the `d` numbers from there on. -/
theorem div_mul_eq_iff_of_dvd {n d m : Nat} (hd : 0 < d) (hdvd : d ∣ m) : n / d * d = m ↔ m ≤ n ∧ n < m + d := by
  obtain ⟨q, rfl⟩ := hdvd
  rw [Nat.mul_comm d q, Nat.mul_left_inj hd.ne', Nat.div_eq_iff hd]
  omega

/-- The first byte a row matches: its pattern, the free bits 0. -/
def AliasRow.first (r : AliasRow) : Nat := r.bits.toNat

/-- The first number past the bytes a row matches: as many numbers follow the pattern as the mask leaves choices. -/
def AliasRow.limit (r : AliasRow) : Nat := r.first + (256 - r.mask.toNat)

/-- Every row of R65 leaves some low bits free, which its pattern has at 0. -/
theorem aliasRows_free_low_bits : ∀ r ∈ aliasRows, ∃ k ≤ 8,
    r.mask = BitVec.allOnes 8 <<< k ∧ 2 ^ k ∣ r.first ∧ r.limit = r.first + 2 ^ k := by decide

/-- A row of R65 matches the bytes of an interval. -/
theorem AliasRow.matchesByte_iff (r : AliasRow) (hr : r ∈ aliasRows) (b : Byte) :
    r.matchesByte b = true ↔ r.first ≤ b.toNat ∧ b.toNat < r.limit := by
  obtain ⟨k, -, hmask, hdvd, hlimit⟩ := aliasRows_free_low_bits r hr
  rw [AliasRow.matchesByte, decide_eq_true_iff, ← BitVec.toNat_inj, hmask, and_allOnes_shiftLeft_toNat, hlimit]
  exact div_mul_eq_iff_of_dvd (Nat.two_pow_pos k) hdvd

/-- The intervals of the rows cover 0x19 to 0xFE. -/
theorem aliasRows_cover (n : Nat) : (0x19 ≤ n ∧ n ≤ 0xFE) ↔ ∃ r ∈ aliasRows, r.first ≤ n ∧ n < r.limit := by
  simp only [aliasRows, List.cons_append, List.nil_append, List.exists_mem_cons_iff, List.not_mem_nil, false_and,
    exists_false, or_false, AliasRow.first, AliasRow.limit, BitVec.ofNat_eq_ofNat, BitVec.toNat_ofNat]
  omega

/-- The intervals of the rows rise: each ends before every later one begins. -/
theorem aliasRows_rise : aliasRows.Pairwise fun r q => r.limit ≤ q.first := by decide

/-- No byte matches a row and a later one. -/
theorem not_matchesByte_of_lt {j k : Nat} {r q : AliasRow} {b : Byte} (hjk : j < k) (hr : aliasRows[j]? = some r)
    (hq : aliasRows[k]? = some q) (hrb : r.matchesByte b = true) : ¬ q.matchesByte b = true := by
  obtain ⟨hj, rfl⟩ := List.getElem?_eq_some_iff.mp hr
  obtain ⟨hk, rfl⟩ := List.getElem?_eq_some_iff.mp hq
  have hrise := List.pairwise_iff_getElem.mp aliasRows_rise j k hj hk hjk
  rw [AliasRow.matchesByte_iff _ (List.getElem_mem hj)] at hrb
  rw [AliasRow.matchesByte_iff _ (List.getElem_mem hk)]
  omega

/-- Settles O14: each row matches an interval of bytes; the intervals cover 0x19 to 0xFE and rise, and from 0x19 on
every byte is DUMP. -/
theorem aliasPatternsPartitionTheAliasSpace : Obligations.AliasPatternsPartitionTheAliasSpace := by
  have hcover : ∀ b : Byte, (0x19 ≤ b.toNat ∧ b.toNat ≤ 0xFE) ↔ ∃ r ∈ aliasRows, r.matchesByte b = true := fun b =>
    (aliasRows_cover b.toNat).trans
      (exists_congr fun r => and_congr_right fun hr => (r.matchesByte_iff hr b).symm)
  refine ⟨rfl, fun b => ⟨hcover b, fun j k r q hr hq hrb hqb => ?disjoint, fun r hr hrb => ?dump⟩⟩
  case disjoint =>
    obtain hjk | hjk | hkj := lt_trichotomy j k
    · exact absurd hqb (not_matchesByte_of_lt hjk hr hq hrb)
    · exact hjk
    · exact absurd hrb (not_matchesByte_of_lt hkj hq hr hqb)
  case dump =>
    obtain ⟨hge, -⟩ := (hcover b).mpr ⟨r, hr, hrb⟩
    exact decode_of_ge b hge

end Sys2Proof

namespace Sys2Proof.Machine

/-! ## The opcode ROM (R67) -/

/-- The ROM holds DUMP's control word from 0x19 on. -/
theorem rom_of_ge (b : Byte) (h : 0x19 ≤ b.toNat) : rom b = dumpWord := by
  unfold rom
  split
  case h_26 => rfl
  all_goals omega

/-- Settles O15: the words of the named opcodes by computation, and DUMP's from 0x19 on. -/
theorem opcodeRomHoldsTheControlWords : Obligations.OpcodeRomHoldsTheControlWords := by
  refine ⟨by decide, fun b h => ?dump⟩
  case dump =>
    rw [rom_of_ge b h]
    rfl

end Sys2Proof.Machine

namespace Sys2Proof.Machine

/-! ## The advance at the top (R82) -/

/-- The advance has no value at the top under `fault`, and only there (R82). -/
theorem advanceIp_eq_none_iff (p : Params) (ip : Address) :
    advanceIp p ip = none ↔ ip.toNat + 1 = p.ipWidth.limit ∧ p.ipOverflow = .fault := by
  obtain ⟨hne, h⟩ | ⟨htop, hwrap, h⟩ | ⟨htop, hfault, h⟩ := advanceIp_cases p ip
  · simp [h, hne]
  · simp [h, hwrap]
  · simp [h, htop, hfault]

/-- At the top under `wrap` the advance is to 0 (R82). -/
theorem advanceIp_of_wrap (p : Params) (ip : Address) (htop : ip.toNat + 1 = p.ipWidth.limit)
    (hwrap : p.ipOverflow = .wrap) : advanceIp p ip = some 0 := by
  rw [advanceIp, if_pos htop, hwrap]

/-- Under `wrap` the advance is by 1 modulo `2^IP_WIDTH` (R82). -/
theorem advanceIp_wrap_toNat (p : Params) (ip : Address) (hwrap : p.ipOverflow = .wrap)
    (hfits : ip.toNat < p.ipWidth.limit) :
    ∃ ip', advanceIp p ip = some ip' ∧ ip'.toNat = (ip.toNat + 1) % p.ipWidth.limit := by
  obtain htop | hlt : ip.toNat + 1 = p.ipWidth.limit ∨ ip.toNat + 1 < p.ipWidth.limit := by omega
  · exact ⟨0, advanceIp_of_wrap p ip htop hwrap, by rw [htop, Nat.mod_self]; rfl⟩
  · exact ⟨ip + 1, advanceIp_of_lt p ip hlt, by rw [address_succ_toNat p ip hlt, Nat.mod_eq_of_lt hlt]⟩

/-! ## The datapath executes the family rules (R83, R84)

The ROM's word of an instruction, run through the ALU and the ports, does what the instruction's form does. The free ALU
outputs (log 9) meet no enabled write. `BitVec.ofNat` and `BitVec.ofInt` reduce modulo 256 themselves, so the ALU's
reduction (R84) is the family rules' own. -/

theorem alu_inc_r (X Y : Byte) : (alu .inc X Y).r = incByte X := by
  apply BitVec.eq_of_toNat_eq
  simp [alu, resultOnly, incByte]

theorem alu_add_r (X Y : Byte) : (alu .add X Y).r = addByte X Y := by
  apply BitVec.eq_of_toNat_eq
  simp [alu, resultOnly, addByte]

theorem alu_sub_r (X Y : Byte) : (alu .sub X Y).r = subByte X Y := by
  apply BitVec.eq_of_toInt_eq
  simp only [alu, resultOnly, subByte, BitVec.toInt_ofInt]
  exact Int.emod_bmod _ 256

section
variable (s : State) (x y : Reg)

/-- A MOV word writes the ALU's second operand. -/
theorem execute_mov : execute (writingWord .mov x (some y)) s = s.copyReg x y := rfl

theorem execute_inc : execute (writingWord .inc x none) s = s.updateReg x incByte :=
  congrArg (s.setReg x) (alu_inc_r (s.reg x) 0)

theorem execute_add : execute (writingWord .add x (some y)) s = s.combineRegs x y addByte :=
  congrArg (s.setReg x) (alu_add_r (s.reg x) (s.reg y))

theorem execute_sub : execute (writingWord .sub x (some y)) s = s.combineRegs x y subByte :=
  congrArg (s.setReg x) (alu_sub_r (s.reg x) (s.reg y))

/-- A CMP word's three flag writes are those of R110. -/
theorem execute_cmp : execute (comparingWord x y) s = s.compareRegs x y := rfl

end

/-- The datapath on an instruction's own control word is the instruction's form. -/
theorem execute_rom_encode (i : Instr) (s : State) : execute (rom (encode i)) s = (formOf i).apply s := by
  cases i
  case nop | dump => rfl
  case movab | movba | movac | movbc | movca | movcb => exact execute_mov s _ _
  case inca | incb | incc => exact execute_inc s _
  case cmpab | cmpac | cmpbc => exact execute_cmp s _ _
  case addab | addac | addbc | addba | addca | addcb => exact execute_add s _ _
  case subab | subac | subba | subbc | subca | subcb => exact execute_sub s _ _

/-- A byte and the opcode of the instruction it decodes to have one control word (R67: the aliases have DUMP's). -/
theorem rom_encode_decode (b : Byte) : rom (encode (decode b)) = rom b := by
  obtain hle | hge : b.toNat ≤ 0x18 ∨ 0x19 ≤ b.toNat := by omega
  · rw [encode_decode_of_le b hle]
  · rw [decode_of_ge b hge, rom_of_ge b hge]
    rfl

/-- The datapath on the ROM's word of a byte is the instruction the byte decodes to. -/
theorem exec_decode_eq_execute (b : Byte) (s : State) : exec (decode b) s = .next (execute (rom b) s) := by
  rw [exec_eq_form, ← execute_rom_encode, rom_encode_decode]

/-- Where the fetch and the advance have values, the step over the ROM executes the word of the byte at `ip`. -/
theorem romStep_eq_execute (s : State) (ip' : Address) (hrst : s.rst = false) (hrun : s.run = .running)
    (hmem : s.ip.toNat < s.params.memSize) (hadv : advanceIp s.params s.ip = some ip') :
    romStep s = execute (rom (s.mem.byte s.ip.toNat)) (s.clearDump.setIp ip') := by
  have hlimit := ipWidth_limit_pos s.params.ipWidth
  obtain ⟨hne, hsome⟩ | ⟨htop, hwrap, hsome⟩ | ⟨-, -, hnone⟩ := advanceIp_cases s.params s.ip
  · have hbelow : s.ip.toNat ≠ s.params.ipWidth.limit - 1 := by omega
    obtain rfl : s.ip + 1 = ip' := by simpa [hsome] using hadv
    simp [romStep, hrst, hrun, hmem.not_ge, hbelow]
  · have hat : s.ip.toNat = s.params.ipWidth.limit - 1 := by omega
    obtain rfl : 0 = ip' := by simpa [hsome] using hadv
    simp [romStep, hrst, hrun, hmem.not_ge, ← hat, hwrap]
  · simp [hnone] at hadv

/-- Settles O19: the guards of R80 are those of a step, and behind them the datapath is the decoded instruction. -/
theorem datapathRefinesTheFamilyRules : Obligations.DatapathRefinesTheFamilyRules := by
  intro s
  obtain ⟨t, hstep⟩ := step_answers s
  rw [hstep, Host.Outcome.next.injEq]
  obtain ⟨hrst, rfl⟩ | ⟨hrst, hrun, rfl⟩ | ⟨hrst, hrun, hmem, rfl⟩ | ⟨hrst, hrun, hmem, hadv, rfl⟩ |
    ⟨hrst, hrun, hmem, ip', hadv, hexec⟩ := step_cases s t hstep
  · simp [romStep, hrst]
  · simp [romStep, hrst, hrun]
  · simp [romStep, hrst, hrun, hmem]
  · obtain ⟨htop, hfault⟩ := (advanceIp_eq_none_iff s.params s.ip).mp hadv
    have hat : s.ip.toNat = s.params.ipWidth.limit - 1 := by omega
    simp [romStep, hrst, hrun, hmem.not_ge, ← hat, hfault]
  · rw [exec_decode_eq_execute, Host.Outcome.next.injEq] at hexec
    rw [romStep_eq_execute s ip' hrst hrun hmem hadv, hexec]

/-! ## The instruction a step runs (R80) -/

/-- Settles O17: below the top the core is ready, at the top under `wrap` the advance is to 0. -/
theorem stepRunsTheDecodedInstruction : Obligations.StepRunsTheDecodedInstruction :=
  ⟨step_of_ready, fun s opcode hrst hrun hread htop hwrap =>
    step_eq_exec s opcode 0 hrst hrun hread (advanceIp_of_wrap s.params s.ip htop hwrap)⟩

/-- A word of 8 table bits is the byte it stands for. -/
theorem tableByte_eight (w : Nat) : tableByte 8 w = BitVec.ofNat 8 w := by
  apply BitVec.eq_of_toNat_eq
  simp [tableByte]

/-- The byte placed at `ip` is the byte the next step fetches. -/
theorem State.placeAtIp_readByte (s : State) (v : Byte) (hmem : s.mem.wf = true) :
    (s.placeAtIp v).readByte s.ip.toNat = some v := by
  rw [State.readByte_eq_some_iff]
  exact ⟨lt_max_of_lt_right (Nat.lt_succ_self _), Memory.byte_write_same s.mem 0 s.ip.toNat v hmem⟩

/-- Settles O18: the placed byte is fetched, and the advance depends on neither memory nor its size. -/
theorem placedWordIsTheNextInstruction : Obligations.PlacedWordIsTheNextInstruction := by
  intro s w ip' hmem hadv
  have hread := s.placeAtIp_readByte (BitVec.ofNat 8 w) hmem
  refine ⟨(s.placeAtIp (BitVec.ofNat 8 w)).clearDump.setIp ip', ?step, by rw [decodeTableWord, tableByte_eight], rfl,
    fun r => ?reg, rfl, rfl, rfl, fun a ha => Memory.byte_write_of_ne s.mem 0 s.ip.toNat a _ hmem ha⟩
  case step =>
    rw [State.withFetchWord, tableByte_eight]
    exact step_eq_exec (s.placeAtIp (BitVec.ofNat 8 w)) _ ip' rfl rfl hread hadv
  case reg => cases r <;> rfl

/-! ## The two stops and the wrap (R81, R82) -/

/-- What the step that stops leaves: everything but the run state, with `dump_valid` 0 (R81, R143, R154). -/
theorem State.clearDump_stop_keeps (s : State) (cause : StopCause) :
    (∀ r, (s.clearDump.stop cause).reg r = s.reg r) ∧ (s.clearDump.stop cause).flags = s.flags ∧
      (s.clearDump.stop cause).ip = s.ip ∧ (s.clearDump.stop cause).params = s.params ∧
      (s.clearDump.stop cause).dumpTrace = s.dumpTrace ∧ (s.clearDump.stop cause).dumpValid = false ∧
      ∀ a, (s.clearDump.stop cause).readByte a = s.readByte a := by
  simp [State.dumpValid]

/-- The step of a running core at or above `MEM_SIZE` (R81). -/
theorem step_of_memSize_le (s : State) (hrst : s.rst = false) (hrun : s.run = .running)
    (hmem : s.params.memSize ≤ s.ip.toNat) : step s = .next (s.clearDump.stop .fetchOutOfBounds) :=
  step_of_readByte_none s hrst hrun (s.readByte_of_le _ hmem)

/-- Settles O21: the stop of an unanswered fetch, and the frame of `exec`. -/
theorem fetchOutOfBoundsStopsTheCore : Obligations.FetchOutOfBoundsStopsTheCore := by
  refine ⟨fun s hrst hrun hmem => ⟨_, step_of_memSize_le s hrst hrun hmem, rfl, s.clearDump_stop_keeps _⟩,
    fun i s => ?exec, fun p hp => ⟨_, step_of_memSize_le (State.boot p []) rfl rfl ?empty, rfl⟩⟩
  case exec =>
    obtain ⟨t, ht, hframe⟩ := exec_answers i s
    exact ⟨t, ht, hframe.run⟩
  case empty => exact hp.trans_le (Nat.zero_le _)

/-- The step of a running core that can fetch and advance leaves it running at the advanced `ip` (R80, R82). -/
theorem step_advances (s : State) (opcode : Byte) (ip' : Address) (hrst : s.rst = false) (hrun : s.run = .running)
    (hread : s.readByte s.ip.toNat = some opcode) (hadv : advanceIp s.params s.ip = some ip') :
    ∃ t, step s = .next t ∧ t.ip = ip' ∧ t.run = .running := by
  obtain ⟨t, ht, hframe⟩ := exec_answers (decode opcode) (s.clearDump.setIp ip')
  exact ⟨t, (step_eq_exec s opcode ip' hrst hrun hread hadv).trans ht, hframe.ip, hframe.run.trans hrun⟩

/-- Under `wrap` no step of a running core ends in an `IpOverflow` stop (R82). -/
theorem step_run_ne_ipOverflow_of_wrap (s t : State) (addr : Address) (hwrap : s.params.ipOverflow = .wrap)
    (hrun : s.run = .running) (h : step s = .next t) : t.run ≠ .stopped .ipOverflow addr := by
  obtain ⟨-, rfl⟩ | ⟨-, hstopped, -⟩ | ⟨-, -, -, rfl⟩ | ⟨-, -, -, hadv, -⟩ | ⟨-, -, -, ip', -, hexec⟩ := step_cases s t h
  · simp
  · exact absurd hrun hstopped
  · simp
  · obtain ⟨-, hfault⟩ := (advanceIp_eq_none_iff s.params s.ip).mp hadv
    simp [hwrap] at hfault
  · rw [(exec_frame _ _ _ hexec).run]
    simp [hrun]

/-- Settles O22: the advance is by 1 below the top, has no value there under `fault`, and is to 0 under `wrap`. -/
theorem ipOverflowFaultsOrWraps : Obligations.IpOverflowFaultsOrWraps := by
  refine ⟨fun s opcode ⟨hrst, hrun, hread, hlt⟩ => ?below, fun s opcode hrst hrun hread htop hfault => ?fault,
    fun s opcode hrst hrun hread htop hwrap => ?wrap, step_run_ne_ipOverflow_of_wrap⟩
  case below =>
    obtain ⟨t, ht, hip, htrun⟩ := step_advances s opcode _ hrst hrun hread (advanceIp_of_lt s.params s.ip hlt)
    exact ⟨t, ht, by rw [hip, address_succ_toNat s.params s.ip hlt], htrun⟩
  case fault =>
    have hadv := (advanceIp_eq_none_iff s.params s.ip).mpr ⟨htop, hfault⟩
    exact ⟨_, step_of_advanceIp_none s opcode hrst hrun hread hadv, rfl, rfl, rfl, s.clearDump_stop_keeps _⟩
  case wrap =>
    have hadv := advanceIp_of_wrap s.params s.ip htop hwrap
    exact ⟨step_eq_exec s opcode 0 hrst hrun hread hadv, step_advances s opcode 0 hrst hrun hread hadv⟩

/-! ## Runs of a stopped core (R85) -/

/-- A state a step does not change is the end of every run from it. -/
theorem run_of_step_self (n : Nat) (s : State) (h : step s = .next s) : core.run n s = .next s := by
  induction n with
  | zero => exact run_zero s
  | succ n ih => exact (run_succ_of_step n s s h).trans ih

/-- Settles O24: the first step clears `dump_valid`, and the later ones have nothing left to clear. -/
theorem stoppedCoreStaysUntilReset : Obligations.StoppedCoreStaysUntilReset := by
  intro n s cause addr hrst hstopped
  have hrun : s.run ≠ .running := by simp [hstopped]
  cases n with
  | zero => exact ⟨s, run_zero s, rfl, absurd rfl⟩
  | succ n =>
    have hfirst := step_of_stopped s hrst hrun
    have hlater := run_of_step_self n s.clearDump (step_of_stopped s.clearDump hrst hrun)
    exact ⟨s.clearDump, (run_succ_of_step n s _ hfirst).trans hlater, rfl, fun _ => rfl⟩

/-! ## How long a core runs (R86) -/

/-- A run of `n + 1` steps is a run of `n` and one step. -/
theorem run_succ_of_run (n : Nat) (s u t : State) (hrun : core.run n s = .next u) (hstep : step u = .next t) :
    core.run (n + 1) s = .next t := by
  induction n generalizing s with
  | zero =>
    obtain rfl : s = u := Host.Outcome.next.inj hrun
    exact run_succ_of_step 0 s t hstep
  | succ n ih =>
    obtain ⟨v, hv⟩ := step_answers s
    rw [run_succ_of_step n s v hv] at hrun
    rw [run_succ_of_step (n + 1) s v hv]
    exact ih v hrun

/-- A core whose memory ends below the top stops at the end of memory, or where it stands past it (R81). -/
theorem run_stops_past_memory (s : State) (hfits : s.ip.toNat < s.params.ipWidth.limit) (hrst : s.rst = false)
    (hrun : s.run = .running) (hshort : s.params.memSize < s.params.ipWidth.limit) :
    ∃ n, ∃ t : State, n ≤ s.params.ipWidth.limit - s.ip.toNat ∧ core.run n s = .next t ∧
      t.run = .stopped .fetchOutOfBounds t.ip ∧ t.ip.toNat = max s.ip.toNat s.params.memSize := by
  obtain hinside | hpast := Nat.le_total s.ip.toNat s.params.memSize
  · obtain ⟨u, hu, hip, hurst, hurun, hparams⟩ :=
      run_ip_of_lt (s.params.memSize - s.ip.toNat) s hrst hrun (by omega) (by omega)
    have hend : u.ip.toNat = max s.ip.toNat s.params.memSize := by omega
    have hstop := step_of_memSize_le u hurst hurun (by rw [hparams]; omega)
    exact ⟨_, _, by omega, run_succ_of_run _ s u _ hu hstop, rfl, hend⟩
  · have hstop := step_of_memSize_le s hrst hrun hpast
    exact ⟨1, _, by omega, run_succ_of_step 0 s _ hstop, rfl, (Nat.max_eq_left hpast).symm⟩

/-- Under `fault` a core whose memory covers the range of `ip` stops at the top (R82). -/
theorem run_stops_at_top (s : State) (hfits : s.ip.toNat < s.params.ipWidth.limit) (hrst : s.rst = false)
    (hrun : s.run = .running) (hfull : s.params.ipWidth.limit ≤ s.params.memSize)
    (hfault : s.params.ipOverflow = .fault) :
    ∃ n, ∃ t : State, n ≤ s.params.ipWidth.limit - s.ip.toNat ∧ core.run n s = .next t ∧
      t.run = .stopped .ipOverflow t.ip ∧ t.ip.toNat + 1 = s.params.ipWidth.limit := by
  obtain ⟨u, hu, hip, hurst, hurun, hparams⟩ :=
    run_ip_of_lt (s.params.ipWidth.limit - 1 - s.ip.toNat) s hrst hrun (by omega) (by omega)
  have htop : u.ip.toNat + 1 = s.params.ipWidth.limit := by omega
  have hread := u.readByte_of_lt u.ip.toNat (by rw [hparams]; omega)
  have hadv := (advanceIp_eq_none_iff u.params u.ip).mpr (by rw [hparams]; exact ⟨htop, hfault⟩)
  have hstop := step_of_advanceIp_none u _ hurst hurun hread hadv
  exact ⟨_, _, by omega, run_succ_of_run _ s u _ hu hstop, rfl, htop⟩

/-- Settles O27: the core stops past a memory that ends below the top, else at the top. -/
theorem runStopsWithinTheAddressSpace : Obligations.RunStopsWithinTheAddressSpace := by
  intro s hs hrst hrun hbound
  obtain hshort | hfull := Nat.lt_or_ge s.params.memSize s.params.ipWidth.limit
  · obtain ⟨n, t, hn, ht, hstop⟩ := run_stops_past_memory s hs.ip_fits hrst hrun hshort
    exact ⟨n, t, hn, ht, fun _ => hstop, fun h => absurd hshort h.not_gt⟩
  · have hfault : s.params.ipOverflow = .fault := hbound.resolve_right hfull.not_gt
    obtain ⟨n, t, hn, ht, hstop⟩ := run_stops_at_top s hs.ip_fits hrst hrun hfull hfault
    exact ⟨n, t, hn, ht, fun h => absurd h hfull.not_gt, fun _ => hstop⟩

/-- Settles O28, by induction on the number of steps: each finds a byte, since memory covers the whole range of `ip`. -/
theorem wrappingCoreRunsForever : Obligations.WrappingCoreRunsForever := by
  intro s n hs hrst hrun hwrap hfull
  induction n generalizing s with
  | zero => exact ⟨s, run_zero s, hrun, (Nat.mod_eq_of_lt hs.ip_fits).symm⟩
  | succ n ih =>
    have hread := s.readByte_of_lt s.ip.toNat (hs.ip_fits.trans_le hfull)
    obtain ⟨ip', hadv, hip'⟩ := advanceIp_wrap_toNat s.params s.ip hwrap hs.ip_fits
    obtain ⟨u, hstep, hip, hurun⟩ := step_advances s _ ip' hrst hrun hread hadv
    obtain ⟨-, hparams⟩ := step_mem_params s u hstep
    obtain ⟨t, ht, htrun, htip⟩ := ih u (stepKeepsTheInvariant s u hs hstep) ((step_rst s u hstep).trans hrst) hurun
      (by rwa [hparams]) (by rwa [hparams])
    refine ⟨t, (run_succ_of_step n s u hstep).trans ht, htrun, ?_⟩
    rw [htip, hip, hip', hparams, Nat.mod_add_mod, Nat.add_assoc, Nat.add_comm 1 n]

end Sys2Proof.Machine

namespace Sys2Proof.Machine

/-! ## An instruction's rule, from its form

`RunsAs` speaks of `exec` in every state and of the step that fetches the instruction. A form that emits no record does the
same whatever `ip` and the debug port hold, so the step's part follows from `exec`'s, for every effect that says nothing of
those two. -/

/-- Unless it emits a record, a form leaves the debug port. -/
theorem Form.apply_dumpPort (f : Form) (hf : f ≠ .emit) (s : State) : (f.apply s).dumpPort = s.dumpPort := by
  cases f with
  | emit => exact absurd rfl hf
  | idle => rfl
  | copy dst src => exact s.setReg_dumpPort dst _
  | update r f => exact s.setReg_dumpPort r _
  | combine x y f => exact s.setReg_dumpPort x _
  | compare p q => exact s.setFlags_dumpPort _

@[simp] theorem State.setReg_clearDump (s : State) (r : Reg) (v : Byte) :
    s.clearDump.setReg r v = (s.setReg r v).clearDump := by
  cases r <;> rfl

@[simp] theorem State.setFlags_clearDump (s : State) (F : Byte) :
    s.clearDump.setFlags F = (s.setFlags F).clearDump := rfl

/-- Unless it emits a record, a form does the same whether or not the debug port is cleared first. -/
theorem Form.apply_clearDump (f : Form) (hf : f ≠ .emit) (s : State) : f.apply s.clearDump = (f.apply s).clearDump := by
  cases f with
  | emit => exact absurd rfl hf
  | _ => simp [Form.apply, State.copyReg, State.updateReg, State.combineRegs, State.compareRegs]

/-- The step of a ready core that fetches no DUMP: the instruction's form, `dump_valid` at 0 and `ip` moved on by 1 (R80). -/
theorem step_of_ready_encode (i : Instr) (hi : formOf i ≠ .emit) (s : State) (h : Ready s (encode i)) :
    step s = .next (((formOf i).apply s).clearDump.setIp (s.ip + 1)) := by
  rw [step_of_ready s _ h, decode_encode, exec_eq_form, Form.apply_setIp _ hi, Form.apply_clearDump _ hi]

/-- The rule of an instruction that emits no record, from what its form does. -/
theorem runsAs_of_apply {i : Instr} {word : BitVec 10} {effect : State → State → Prop} (hi : formOf i ≠ .emit)
    (hword : (rom (encode i)).bits = word) (happly : ∀ s, effect s ((formOf i).apply s))
    (hkeep : ∀ s t ip, effect s t → effect s (t.clearDump.setIp ip)) : RunsAs i (encode i) word effect := by
  refine ⟨decode_encode i, rfl, hword, fun s => ?exec, fun s hready => ?step⟩
  case exec =>
    have hframe := exec_frame i s _ (exec_eq_form i s)
    exact ⟨_, exec_eq_form i s, happly s, hframe.ip, Form.apply_dumpPort _ hi s⟩
  case step =>
    have hstep := step_of_ready_encode i hi s hready
    obtain ⟨-, -, -, htop⟩ := hready
    exact ⟨_, hstep, hkeep s _ _ (happly s), address_succ_toNat s.params s.ip htop, rfl⟩

/-! ## NOP and the moves (R90 to R96) -/

theorem NothingWritten.refl (s : State) : NothingWritten s s :=
  ⟨fun _ => rfl, rfl, rfl, rfl, rfl, rfl, fun _ => rfl⟩

theorem NothingWritten.clearDump_setIp {s t : State} (h : NothingWritten s t) (ip : Address) :
    NothingWritten s (t.clearDump.setIp ip) := by
  simpa [NothingWritten, Untouched] using h

/-- The write of one register has the frame of R9. -/
theorem regWritten_setReg (s : State) (r : Reg) (v : Byte) : RegWritten r v.toNat s (s.setReg r v) :=
  ⟨by simp, fun q hq => s.reg_setReg_of_ne r q v hq, by simp, by simp, by simp, by simp, by simp, by simp⟩

theorem RegWritten.clearDump_setIp {r : Reg} {v : Int} {s t : State} (h : RegWritten r v s t) (ip : Address) :
    RegWritten r v s (t.clearDump.setIp ip) := by
  simpa [RegWritten, Untouched] using h

/-- The rule of a move, whichever its two registers. -/
theorem runsAs_of_copy {i : Instr} {dst src : Reg} {word : BitVec 10} (hform : formOf i = .copy dst src)
    (hword : (rom (encode i)).bits = word) :
    RunsAs i (encode i) word (fun s t => RegWritten dst (valueOf src s) s t) := by
  refine runsAs_of_apply (by simp [hform]) hword (fun s => ?apply) fun s t ip h => h.clearDump_setIp ip
  case apply =>
    rw [hform]
    exact regWritten_setReg s dst (s.reg src)

/-- Settles O30: NOP's form is idle, and past the image a booted core's memory reads as NOP's opcode. -/
theorem nopChangesNothing : Obligations.NopChangesNothing := by
  refine ⟨runsAs_of_apply (i := .nop) (by simp [formOf]) rfl NothingWritten.refl fun s t ip h => h.clearDump_setIp ip,
    fun p image k hle hlt => ?fill⟩
  case fill =>
    rw [State.boot_readByte p image k hlt, List.getD_eq_default _ _ hle]
    exact congrArg some (decode_encode .nop)

/-- Settles O31: each move's form is a copy between its two registers. -/
theorem movesCopyTheSource : Obligations.MovesCopyTheSource :=
  ⟨runsAs_of_copy (i := .movab) rfl rfl, runsAs_of_copy (i := .movba) rfl rfl, runsAs_of_copy (i := .movac) rfl rfl,
    runsAs_of_copy (i := .movbc) rfl rfl, runsAs_of_copy (i := .movca) rfl rfl, runsAs_of_copy (i := .movcb) rfl rfl⟩

end Sys2Proof.Machine

namespace Sys2Proof.Machine

/-! ## The increments (R100 to R103) -/

/-- The increment of a register's value modulo 256, in the integers of `valueOf` (R100). -/
theorem incByte_valueOf (r : Reg) (s : State) : ((incByte (s.reg r)).toNat : Int) = (valueOf r s + 1) % 256 := by
  simp [incByte_toNat, valueOf]

/-- The rule of an increment, whichever its register. -/
theorem runsAs_of_update_incByte {i : Instr} {r : Reg} {word : BitVec 10} (hform : formOf i = .update r incByte)
    (hword : (rom (encode i)).bits = word) :
    RunsAs i (encode i) word (fun s t => RegWritten r ((valueOf r s + 1) % 256) s t) := by
  refine runsAs_of_apply (by simp [hform]) hword (fun s => ?apply) fun s t ip h => h.clearDump_setIp ip
  case apply =>
    rw [hform, ← incByte_valueOf]
    exact regWritten_setReg s r (incByte (s.reg r))

/-- Settles O32: each increment's form is an update of its register by `incByte`. -/
theorem incrementsAddOneModulo256 : Obligations.IncrementsAddOneModulo256 :=
  ⟨runsAs_of_update_incByte (i := .inca) rfl rfl, runsAs_of_update_incByte (i := .incb) rfl rfl,
    runsAs_of_update_incByte (i := .incc) rfl rfl⟩

/-- The increments' forms are updates of their registers by `incByte`. -/
theorem formOf_of_mem_increments {i : Instr} {r : Reg} (h : (i, r) ∈ increments) : formOf i = .update r incByte := by
  simp only [increments, List.mem_cons, Prod.mk.injEq, List.not_mem_nil, or_false] at h
  obtain ⟨rfl, rfl⟩ | ⟨rfl, rfl⟩ | ⟨rfl, rfl⟩ := h <;> rfl

/-- The first of `n + 1` executions does what the instruction's form does. -/
theorem execTimes_succ (i : Instr) (n : Nat) (s : State) :
    execTimes i (n + 1) s = execTimes i n ((formOf i).apply s) := by
  rw [execTimes, exec_eq_form]

/-- A register that takes the value it holds leaves the state as it is. -/
theorem State.setReg_reg_self (s : State) (r : Reg) : s.setReg r (s.reg r) = s := by
  cases r <;> rfl

/-- `n` executions of an instruction of update form apply its function `n` times to its register. -/
theorem execTimes_of_update {i : Instr} {r : Reg} {f : Byte → Byte} (hform : formOf i = .update r f) (n : Nat)
    (s : State) : execTimes i n s = .next (s.setReg r (f^[n] (s.reg r))) := by
  induction n generalizing s with
  | zero => rw [execTimes, Function.iterate_zero_apply, s.setReg_reg_self]
  | succ n ih =>
    rw [execTimes_succ, hform, ih, Form.apply, State.updateReg, State.reg_setReg_same, State.setReg_setReg_same,
      Function.iterate_succ_apply]

/-- `n` increments of a byte add `n` modulo 256 (R103). -/
theorem iterate_incByte_toNat (n : Nat) (x : Byte) : (incByte^[n] x).toNat = (x.toNat + n) % 256 := by
  induction n with
  | zero => exact (Nat.mod_eq_of_lt x.isLt).symm
  | succ n ih => rw [Function.iterate_succ_apply', incByte_toNat, ih, Nat.mod_add_mod, Nat.add_assoc]

/-- Settles O33: `n` executions write the register once with the `n`-fold increment of its value. -/
theorem repeatedIncrementAddsTheCount : Obligations.RepeatedIncrementAddsTheCount := by
  rintro n ⟨i, r⟩ hi s
  have hvalue : ((incByte^[n] (s.reg r)).toNat : Int) = (valueOf r s + n) % 256 := by
    simp [iterate_incByte_toNat, valueOf]
  have hwritten := regWritten_setReg s r (incByte^[n] (s.reg r))
  rw [hvalue] at hwritten
  exact ⟨_, execTimes_of_update (formOf_of_mem_increments hi) n s, hwritten, s.setReg_ip r _, s.setReg_dumpPort r _⟩

end Sys2Proof.Machine

namespace Sys2Proof.Machine

/-! ## The compares (R110 to R114) -/

/-- A compare writes G, E and L and has the frame of R110. -/
theorem compared_compareRegs (s : State) (p q : Reg) : Compared p q s (s.compareRegs p q) := by
  refine ⟨?greater, ?equal, ?less, fun k hG hE hL => ?other, s.setFlags_reg _, rfl, rfl, rfl, rfl, fun _ => rfl⟩
  case other => exact Form.apply_flags_getLsbD (.compare p q) s k hG hE hL
  all_goals exact compareFlags_getLsbD (s.reg p) (s.reg q) s.flags _

theorem Compared.clearDump_setIp {p q : Reg} {s t : State} (h : Compared p q s t) (ip : Address) :
    Compared p q s (t.clearDump.setIp ip) := by
  simpa [Compared, Untouched] using h

/-- The rule of a compare, whichever its two registers. -/
theorem runsAs_of_compare {i : Instr} {p q : Reg} {word : BitVec 10} (hform : formOf i = .compare p q)
    (hword : (rom (encode i)).bits = word) : RunsAs i (encode i) word (Compared p q) := by
  refine runsAs_of_apply (by simp [hform]) hword (fun s => ?apply) fun s t ip h => h.clearDump_setIp ip
  case apply =>
    rw [hform]
    exact compared_compareRegs s p q

/-- Settles O34: each compare's form compares its two registers. -/
theorem comparesWriteGreaterEqualLess : Obligations.ComparesWriteGreaterEqualLess :=
  ⟨runsAs_of_compare (i := .cmpab) rfl rfl, runsAs_of_compare (i := .cmpac) rfl rfl,
    runsAs_of_compare (i := .cmpbc) rfl rfl⟩

/-- Over any F, a compare leaves exactly one of G, E and L: the one it leaves over F = 0 (R114). -/
theorem compareFlags_and_mask_cases (X Y F : Byte) :
    compareFlags X Y F &&& 0x0E = 0x02 ∨ compareFlags X Y F &&& 0x0E = 0x04 ∨ compareFlags X Y F &&& 0x0E = 0x08 := by
  rw [compareFlags_and_mask X Y F 0x00]
  obtain h | h | h := compareFlags_legal X Y 0x00 (.inl rfl)
  · exact .inl (by rw [h]; rfl)
  · exact .inr (.inl (by rw [h]; rfl))
  · exact .inr (.inr (by rw [h]; rfl))

/-- The flags a compare leaves are those of its two registers (R110). -/
theorem apply_flags_of_mem_compares (i : Instr) (hi : i ∈ compares) :
    ∃ p q, ∀ s, ((formOf i).apply s).flags = compareFlags (s.reg p) (s.reg q) s.flags := by
  obtain ⟨p, q, hform⟩ := (mem_compares_iff i).mp hi
  exact ⟨p, q, fun s => by rw [hform, Form.apply_flags]⟩

/-- An instruction leaves a compare flag set where one was: a compare sets one, and no other writes F (R29, R114). -/
theorem apply_flags_and_mask_ne_zero (i : Instr) (s : State) (hset : s.flags &&& 0x0E ≠ 0) :
    ((formOf i).apply s).flags &&& 0x0E ≠ 0 := by
  by_cases hi : i ∈ compares
  · obtain ⟨p, q, hflags⟩ := apply_flags_of_mem_compares i hi
    rw [hflags]
    obtain h | h | h := compareFlags_and_mask_cases (s.reg p) (s.reg q) s.flags <;> rw [h] <;> decide
  · rwa [apply_flags_of_notMem_compares i hi]

/-- With `rst` released, a step leaves a compare flag set where one was (R114). -/
theorem step_flags_and_mask_ne_zero (s t : State) (hrst : s.rst = false) (h : step s = .next t)
    (hset : s.flags &&& 0x0E ≠ 0) : t.flags &&& 0x0E ≠ 0 := by
  obtain ⟨hrst', -⟩ | ⟨-, -, rfl⟩ | ⟨-, -, -, rfl⟩ | ⟨-, -, -, -, rfl⟩ | ⟨-, -, -, ip', -, hexec⟩ := step_cases s t h
  case inl => simp [hrst] at hrst'
  case inr.inr.inr.inr =>
    rw [exec_eq_next_iff] at hexec
    exact hexec ▸ apply_flags_and_mask_ne_zero _ _ hset
  all_goals exact hset

/-- Settles O35: a compare's flags over any F, and that no other instruction and no step clears them. -/
theorem exactlyOneCompareFlagAfterCompare : Obligations.ExactlyOneCompareFlagAfterCompare := by
  refine ⟨fun i hi s => ⟨_, exec_eq_form i s, ?one, ?carry, fun hs => ?legal⟩, step_flags_and_mask_ne_zero,
    fun i s t hi h => ?kept, fun _ _ => BitVec.zero_and⟩
  case one =>
    obtain ⟨p, q, hflags⟩ := apply_flags_of_mem_compares i hi
    rw [hflags]
    exact compareFlags_and_mask_cases (s.reg p) (s.reg q) s.flags
  case carry => exact Form.apply_flags_getLsbD _ s 0 (by decide) (by decide) (by decide)
  case legal =>
    obtain ⟨p, q, hflags⟩ := apply_flags_of_mem_compares i hi
    rw [hflags]
    exact compareFlags_legal (s.reg p) (s.reg q) s.flags hs.flags_legal
  case kept =>
    rw [exec_eq_next_iff] at h
    rw [h, apply_flags_of_notMem_compares i hi]

end Sys2Proof.Machine

namespace Sys2Proof.Machine

/-! ## The additions, and the law they share with the subtractions (R120 to R126, R136)

Each of the twelve combines its two registers by `addByte` or `subByte`. What is said of one is proved once for a form that
combines; the two byte operations then say what the result is, unsigned (R21) and in two's complement. -/

/-- The sum of two registers modulo 256, in the integers of `valueOf` (R126). -/
theorem addByte_valueOf (x y : Reg) (s : State) :
    ((addByte (s.reg x) (s.reg y)).toNat : Int) = (valueOf x s + valueOf y s) % 256 := by
  simp [addByte_toNat, valueOf]

/-- The difference of two registers modulo 256, in the integers of `valueOf` (R136). -/
theorem subByte_valueOf (x y : Reg) (s : State) :
    ((subByte (s.reg x) (s.reg y)).toNat : Int) = (valueOf x s - valueOf y s) % 256 :=
  subByte_toNat (s.reg x) (s.reg y)

/-- The same sum as two's-complement bytes, wrapped to -128 … 127 (R126). -/
theorem addByte_toInt (X Y : Byte) : (addByte X Y).toInt = Int.bmod (X.toInt + Y.toInt) 256 := by
  rw [addByte_eq]
  exact BitVec.toInt_add X Y

/-- The same difference as two's-complement bytes, wrapped to -128 … 127 (R136). -/
theorem subByte_toInt (X Y : Byte) : (subByte X Y).toInt = Int.bmod (X.toInt - Y.toInt) 256 := by
  rw [subByte_eq]
  exact BitVec.toInt_sub

/-- The rule of an instruction that combines two registers, whichever they are and whatever value the combination has. -/
theorem runsAs_of_combine {i : Instr} {x y : Reg} {f : Byte → Byte → Byte} {word : BitVec 10} {value : State → Int}
    (hform : formOf i = .combine x y f) (hword : (rom (encode i)).bits = word)
    (hvalue : ∀ s, ((f (s.reg x) (s.reg y)).toNat : Int) = value s) :
    RunsAs i (encode i) word (fun s t => RegWritten x (value s) s t) := by
  refine runsAs_of_apply (by simp [hform]) hword (fun s => ?apply) fun s t ip h => h.clearDump_setIp ip
  case apply =>
    rw [hform, ← hvalue]
    exact regWritten_setReg s x (f (s.reg x) (s.reg y))

/-- Settles O36: each addition's form combines its two registers by `addByte`. -/
theorem additionsAddModulo256 : Obligations.AdditionsAddModulo256 :=
  ⟨runsAs_of_combine (i := .addab) rfl rfl (addByte_valueOf .A .B),
    runsAs_of_combine (i := .addac) rfl rfl (addByte_valueOf .A .C),
    runsAs_of_combine (i := .addbc) rfl rfl (addByte_valueOf .B .C),
    runsAs_of_combine (i := .addba) rfl rfl (addByte_valueOf .B .A),
    runsAs_of_combine (i := .addca) rfl rfl (addByte_valueOf .C .A),
    runsAs_of_combine (i := .addcb) rfl rfl (addByte_valueOf .C .B)⟩

/-- The additions' forms combine their two registers by `addByte`. -/
theorem formOf_of_mem_additions : ∀ ixy ∈ additions, formOf ixy.1 = .combine ixy.2.1 ixy.2.2 addByte := by
  simp [additions, formOf]

/-- The subtractions' forms combine their two registers by `subByte`. -/
theorem formOf_of_mem_subtractions : ∀ ixy ∈ subtractions, formOf ixy.1 = .combine ixy.2.1 ixy.2.2 subByte := by
  simp [subtractions, formOf]

/-- An instruction that combines two registers answers the combination, read both ways, and keeps F. -/
theorem exec_of_combine {i : Instr} {x y : Reg} {f : Byte → Byte → Byte} (hform : formOf i = .combine x y f) (s : State) :
    ∃ t, exec i s = .next t ∧ valueOf x t = (f (s.reg x) (s.reg y)).toNat ∧
      signedValueOf x t = (f (s.reg x) (s.reg y)).toInt ∧ t.flags = s.flags := by
  refine ⟨s.combineRegs x y f, ?next, ?value, ?signed, s.setReg_flags x _⟩
  case next => rw [exec_eq_form, hform, Form.apply]
  case value => rw [valueOf, State.combineRegs, State.reg_setReg_same]
  case signed => rw [signedValueOf, State.combineRegs, State.reg_setReg_same]

/-- Settles O38: the combination by `addByte` or `subByte`, and the two differences of 5 and 3. -/
theorem twelveArithmeticInstructionsShareOneWrappingLaw :
    Obligations.TwelveArithmeticInstructionsShareOneWrappingLaw := by
  refine ⟨fun ixy hi s => ?add, fun ixy hi s => ?sub, fun s ha hb => ?differences⟩
  case add =>
    obtain ⟨t, hexec, hvalue, hsigned, hflags⟩ := exec_of_combine (formOf_of_mem_additions ixy hi) s
    exact ⟨t, hexec, hvalue.trans (addByte_valueOf _ _ s), hsigned.trans (addByte_toInt _ _), hflags⟩
  case sub =>
    obtain ⟨t, hexec, hvalue, hsigned, hflags⟩ := exec_of_combine (formOf_of_mem_subtractions ixy hi) s
    exact ⟨t, hexec, hvalue.trans (subByte_valueOf _ _ s), hsigned.trans (subByte_toInt _ _), hflags⟩
  case differences =>
    have hab : subByte s.a s.b = 0x02 := by rw [ha, hb]; rfl
    have hba : subByte s.b s.a = 0xFE := by rw [ha, hb]; rfl
    exact ⟨_, _, exec_eq_form .subab s, exec_eq_form .subba s, hab, hb, hba, ha⟩

end Sys2Proof.Machine

namespace Sys2Proof.Machine

/-! ## The subtractions (R130 to R135)

The first register is the minuend and takes the difference; the law of the additions serves with `subByte` for `addByte`. -/

/-- Settles O37: each subtraction's form combines its two registers by `subByte`. -/
theorem subtractionsSubtractModulo256 : Obligations.SubtractionsSubtractModulo256 :=
  ⟨runsAs_of_combine (i := .subab) rfl rfl (subByte_valueOf .A .B),
    runsAs_of_combine (i := .subac) rfl rfl (subByte_valueOf .A .C),
    runsAs_of_combine (i := .subba) rfl rfl (subByte_valueOf .B .A),
    runsAs_of_combine (i := .subbc) rfl rfl (subByte_valueOf .B .C),
    runsAs_of_combine (i := .subca) rfl rfl (subByte_valueOf .C .A),
    runsAs_of_combine (i := .subcb) rfl rfl (subByte_valueOf .C .B)⟩

end Sys2Proof.Machine

namespace Sys2Proof.Machine

/-! ## DUMP and its aliases (R140 to R142)

An opcode counts only through `decode`, so 0xFF and its aliases share one step. -/

/-- The snapshot's flag fields are bits 0 to 3 of F (R140). -/
theorem State.snapshot_eq (s : State) :
    s.snapshot =
      { a := s.a, b := s.b, c := s.c, overflow := s.flags.getLsbD 0, cmpGreater := s.flags.getLsbD 1,
        cmpEqual := s.flags.getLsbD 2, cmpLess := s.flags.getLsbD 3, ip := s.ip } := by
  simp only [State.snapshot, flagOf_eq_getLsbD, Flag.bit]

/-- DUMP emits the snapshot and has no other effect (R141). -/
theorem emitted_emitDump (s : State) : Emitted s.ip s (s.emitDump s.snapshot) := by
  simp [Emitted, Untouched, State.snapshot_eq]

/-- A DUMP reads nothing of the old debug port, nor of `ip` before the advance. -/
theorem Emitted.of_clearDump_setIp {ip : Address} {s t : State} (h : Emitted ip (s.clearDump.setIp ip) t) :
    Emitted ip s t := by
  simpa [Emitted, Untouched] using h

/-- The step of a running core that fetches a byte of DUMP and advances (R80, R141). -/
theorem step_emits (s : State) (opcode : Byte) (ip' : Address) (hdump : decode opcode = .dump) (hrst : s.rst = false)
    (hrun : s.run = .running) (hread : s.readByte s.ip.toNat = some opcode)
    (hadv : advanceIp s.params s.ip = some ip') : ∃ t, step s = .next t ∧ Emitted ip' s t := by
  refine ⟨_, ?step, (emitted_emitDump (s.clearDump.setIp ip')).of_clearDump_setIp⟩
  case step =>
    rw [step_eq_exec s opcode ip' hrst hrun hread hadv, hdump]
    exact exec_eq_form .dump _

/-- Below the top the record's IP is the address of the fetched byte plus 1 (R140). -/
theorem step_emits_of_ready (s : State) (opcode : Byte) (hdump : decode opcode = .dump) (h : Ready s opcode) :
    ∃ t, step s = .next t ∧ Emitted (s.ip + 1) s t := by
  obtain ⟨hrst, hrun, hread, htop⟩ := h
  exact step_emits s opcode (s.ip + 1) hdump hrst hrun hread (advanceIp_of_lt s.params s.ip htop)

/-- Across a wrap the record's IP is 0 (R140). -/
theorem step_emits_of_wrap (s : State) (opcode : Byte) (hdump : decode opcode = .dump) (hrst : s.rst = false)
    (hrun : s.run = .running) (hread : s.readByte s.ip.toNat = some opcode)
    (htop : s.ip.toNat + 1 = s.params.ipWidth.limit) (hwrap : s.params.ipOverflow = .wrap) :
    ∃ t, step s = .next t ∧ Emitted 0 s t :=
  step_emits s opcode 0 hdump hrst hrun hread (advanceIp_of_wrap s.params s.ip htop hwrap)

/-- Settles O39: `exec` emits the snapshot at the `ip` it finds, which in a step is the advanced one. -/
theorem dumpEmitsTheSnapshotRecord : Obligations.DumpEmitsTheSnapshotRecord := by
  have hdump : decode 0xFF = .dump := decode_encode .dump
  exact ⟨hdump, rfl, rfl, fun s => ⟨_, exec_eq_form .dump s, emitted_emitDump s⟩,
    fun s => step_emits_of_ready s 0xFF hdump, fun s => step_emits_of_wrap s 0xFF hdump⟩

/-- Settles O40: an alias byte decodes to DUMP and finds DUMP's control word, and the step depends on no more of it. -/
theorem aliasBytesExecuteAsDump : Obligations.AliasBytesExecuteAsDump := by
  intro b hfirst _
  have hdump := decode_of_ge b hfirst
  have hrom : rom b = rom 0xFF := rom_of_ge b hfirst
  exact ⟨hdump, hrom, congrArg ControlWord.bits hrom, fun s => step_emits_of_ready s b hdump,
    fun s => step_emits_of_wrap s b hdump⟩

/-! ## Which steps emit a record (R143) -/

/-- With the debug port cleared, a form raises `dump_valid` exactly if it emits (R143). -/
theorem Form.apply_dumpValid_iff (f : Form) (s : State) (hport : s.dumpPort = none) :
    (f.apply s).dumpValid = true ↔ f = .emit := by
  by_cases hf : f = .emit
  · subst hf
    exact iff_of_true rfl rfl
  · simp [State.dumpValid, Form.apply_dumpPort f hf, hport, hf]

/-- With the debug port cleared, a form adds to the trace what it puts on the port (R143). -/
theorem Form.apply_dumpTrace (f : Form) (s : State) (hport : s.dumpPort = none) :
    (f.apply s).dumpTrace = s.dumpTrace ++ (f.apply s).dumpPort.toList := by
  cases f with
  | emit => rfl
  | _ => simp [Form.apply, State.copyReg, State.updateReg, State.combineRegs, State.compareRegs, hport]

/-- A step raises `dump_valid` exactly if it fetches a byte of DUMP and advances (R143). -/
theorem step_dumpValid_iff (s t : State) (h : step s = .next t) :
    t.dumpValid = true ↔
      s.rst = false ∧ s.run = .running ∧ (s.readByte s.ip.toNat).map decode = some .dump ∧
        advanceIp s.params s.ip ≠ none := by
  obtain ⟨hrst, rfl⟩ | ⟨-, hrun, rfl⟩ | ⟨-, -, hmem, rfl⟩ | ⟨-, -, -, hadv, rfl⟩ |
    ⟨hrst, hrun, hmem, ip', hadv, hexec⟩ := step_cases s t h
  · simp [State.dumpValid, hrst]
  · simp [State.dumpValid, hrun]
  · simp [State.dumpValid, s.readByte_of_le _ hmem]
  · simp [State.dumpValid, hadv]
  · rw [exec_eq_next_iff] at hexec
    rw [hexec, Form.apply_dumpValid_iff _ _ rfl, formOf_eq_emit_iff]
    simp [hrst, hrun, s.readByte_of_lt _ hmem, hadv]

/-- A step adds to the trace the record it leaves on the debug port, or nothing (R143; log 5). -/
theorem step_dumpTrace (s t : State) (h : step s = .next t) : t.dumpTrace = s.dumpTrace ++ t.dumpRec.toList := by
  obtain ⟨-, rfl⟩ | ⟨-, -, rfl⟩ | ⟨-, -, -, rfl⟩ | ⟨-, -, -, -, rfl⟩ | ⟨-, -, -, ip', -, hexec⟩ := step_cases s t h
  case inr.inr.inr.inr =>
    rw [exec_eq_next_iff] at hexec
    exact hexec ▸ Form.apply_dumpTrace _ _ rfl
  all_goals exact (List.append_nil _).symm

/-- Settles O41: the condition and the trace of the one next state that a step answers. -/
theorem onlyDumpStepsEmitRecords : Obligations.OnlyDumpStepsEmitRecords := by
  intro s
  obtain ⟨t, ht⟩ := step_answers s
  exact ⟨t, ht, step_dumpValid_iff s t ht, fun _ => step_dumpTrace s t ht⟩

end Sys2Proof.Machine

namespace Sys2Proof.Machine

/-! ## Reset, and what leaves a stop (R155, R170) -/

/-- Settles O3: the values reset writes, and the step under `rst`. -/
theorem resetSetsEveryRegister : Obligations.ResetSetsEveryRegister :=
  ⟨fun s => ⟨rfl, rfl, rfl, rfl, rfl, rfl, rfl, s.applyReset_params, s.applyReset_readByte⟩, step_of_rst⟩

/-- Only a step under `rst` takes a stopped core to a running one (R155). -/
theorem rst_of_step_leaves_stop (s t : State) (hstopped : s.run ≠ .running) (h : step s = .next t)
    (hrun : t.run = .running) : s.rst = true := by
  by_contra hrst
  rw [step_of_stopped s (Bool.eq_false_of_not_eq_true hrst) hstopped] at h
  obtain rfl : s.clearDump = t := Host.Outcome.next.inj h
  exact hstopped hrun

/-- Settles O4: without `rst` the step of a stopped core only clears `dump_valid`. -/
theorem onlyResetLeavesAStop : Obligations.OnlyResetLeavesAStop := by
  refine ⟨rst_of_step_leaves_stop, fun s cause addr hrst hstopped => ?kept⟩
  case kept => exact ⟨s.clearDump, step_of_stopped s hrst (by simp [hstopped]), hstopped⟩

/-! ## The two stops (R150 to R156) -/

/-- Everything a step can do to a running core's run state: the fetch is checked first, then the advance, and only behind
both does an instruction execute, which keeps the core running (R80, R153). -/
theorem step_cases_of_running (s t : State) (hrst : s.rst = false) (hrun : s.run = .running) (h : step s = .next t) :
    (s.params.memSize ≤ s.ip.toNat ∧ t = s.clearDump.stop .fetchOutOfBounds) ∨
    (s.ip.toNat < s.params.memSize ∧ s.ip.toNat + 1 = s.params.ipWidth.limit ∧ s.params.ipOverflow = .fault ∧
      t = s.clearDump.stop .ipOverflow) ∨
    (s.ip.toNat < s.params.memSize ∧ ¬(s.ip.toNat + 1 = s.params.ipWidth.limit ∧ s.params.ipOverflow = .fault) ∧
      t.run = .running) := by
  obtain ⟨hrst', -⟩ | ⟨-, hstopped, -⟩ | ⟨-, -, hmem, ht⟩ | ⟨-, -, hmem, hadv, ht⟩ | ⟨-, -, hmem, ip', hadv, hexec⟩ :=
    step_cases s t h
  · simp [hrst] at hrst'
  · exact absurd hrun hstopped
  · exact .inl ⟨hmem, ht⟩
  · obtain ⟨htop, hfault⟩ := (advanceIp_eq_none_iff s.params s.ip).mp hadv
    exact .inr (.inl ⟨hmem, htop, hfault, ht⟩)
  · have hadvances : advanceIp s.params s.ip ≠ none := by simp [hadv]
    rw [ne_eq, advanceIp_eq_none_iff] at hadvances
    exact .inr (.inr ⟨hmem, hadvances, (exec_frame _ _ _ hexec).run.trans hrun⟩)

/-- The step of a running core ends in a fetch stop exactly at or above `MEM_SIZE` (R81, R150). -/
theorem step_run_fetchOutOfBounds_iff (s t : State) (hrst : s.rst = false) (hrun : s.run = .running)
    (h : step s = .next t) : t.run = .stopped .fetchOutOfBounds s.ip ↔ s.params.memSize ≤ s.ip.toNat := by
  obtain ⟨hmem, rfl⟩ | ⟨hmem, -, -, rfl⟩ | ⟨hmem, -, ht⟩ := step_cases_of_running s t hrst hrun h
  · simp [hmem]
  · simp [hmem]
  · simp [ht, hmem]

/-- The step of a running core ends in an overflow stop exactly after a fetch at the top under `fault` (R82, R151). -/
theorem step_run_ipOverflow_iff (s t : State) (hrst : s.rst = false) (hrun : s.run = .running) (h : step s = .next t) :
    t.run = .stopped .ipOverflow s.ip ↔
      s.ip.toNat < s.params.memSize ∧ s.ip.toNat + 1 = s.params.ipWidth.limit ∧ s.params.ipOverflow = .fault := by
  obtain ⟨hmem, rfl⟩ | ⟨hmem, htop, hfault, rfl⟩ | ⟨-, hadvances, ht⟩ := step_cases_of_running s t hrst hrun h
  · simp [hmem.not_gt]
  · simp [hmem, htop, hfault]
  · simp [ht, hadvances]

/-- The step that stops a running core changes the run state and `dump_valid` only (R154). -/
theorem step_eq_clearDump_stop (s t : State) (cause : StopCause) (addr : Address) (hrst : s.rst = false)
    (hrun : s.run = .running) (h : step s = .next t) (hstop : t.run = .stopped cause addr) :
    t = s.clearDump.stop cause ∧ addr = s.ip := by
  obtain ⟨-, rfl⟩ | ⟨-, -, -, rfl⟩ | ⟨-, -, ht⟩ := step_cases_of_running s t hrst hrun h
  · obtain ⟨rfl, rfl⟩ := RunState.stopped.inj hstop
    exact ⟨rfl, rfl⟩
  · obtain ⟨rfl, rfl⟩ := RunState.stopped.inj hstop
    exact ⟨rfl, rfl⟩
  · simp [ht] at hstop

/-- A step that stops a running core is no step under `rst` (R170). -/
theorem rst_eq_false_of_step_stops (s t : State) (cause : StopCause) (addr : Address) (h : step s = .next t)
    (hstop : t.run = .stopped cause addr) : s.rst = false := by
  by_contra hrst
  rw [step_of_rst s (Bool.eq_true_of_not_eq_false hrst)] at h
  obtain rfl : s.applyReset = t := Host.Outcome.next.inj h
  simp at hstop

/-- No instruction raises a stop (R152, R153). -/
theorem exec_keeps_run (i : Instr) (s : State) : ∃ t, exec i s = .next t ∧ t.run = s.run := by
  obtain ⟨t, ht, hframe⟩ := exec_answers i s
  exact ⟨t, ht, hframe.run⟩

/-- Settles O23: a failed fetch stops the core whatever the advance would do, and an overflow stop is below `MEM_SIZE`. -/
theorem fetchStopComesBeforeOverflowStop : Obligations.FetchStopComesBeforeOverflowStop := by
  refine ⟨fun s hrst hrun hmem _ => ⟨_, step_of_memSize_le s hrst hrun hmem, rfl⟩, fun s t addr hrun h hstop => ?fetched,
    exec_keeps_run⟩
  case fetched =>
    have hrst := rst_eq_false_of_step_stops s t _ addr h hstop
    obtain ⟨-, rfl⟩ := step_eq_clearDump_stop s t _ addr hrst hrun h hstop
    obtain ⟨hmem, -, -⟩ := (step_run_ipOverflow_iff s t hrst hrun h).mp hstop
    exact ⟨_, s.readByte_of_lt _ hmem⟩

/-- Settles O25: the stop entry is the whole of the step, and its `dump_valid` is 0, so later steps have nothing to clear. -/
theorem stopsArePrecise : Obligations.StopsArePrecise := by
  intro s t cause addr hrst hrun h hstop
  obtain ⟨rfl, rfl⟩ := step_eq_clearDump_stop s t cause addr hrst hrun h hstop
  have hstopped : (s.clearDump.stop cause).run ≠ .running := by simp
  exact ⟨rfl, rfl, fun n => run_of_step_self n _ (step_of_stopped _ hrst hstopped)⟩

/-- Settles O26: every step answers a next state, and of a running core it is one of the three of `step_cases_of_running`. -/
theorem noOtherExceptionExists : Obligations.NoOtherExceptionExists := by
  refine ⟨exec_keeps_run, fun s => ?step⟩
  case step =>
    obtain ⟨t, ht⟩ := step_answers s
    refine ⟨t, ht, fun hrst hrun => ⟨step_run_fetchOutOfBounds_iff s t hrst hrun ht,
      step_run_ipOverflow_iff s t hrst hrun ht, ?_⟩⟩
    obtain ⟨-, rfl⟩ | ⟨-, -, -, rfl⟩ | ⟨-, -, hkept⟩ := step_cases_of_running s t hrst hrun ht
    · exact .inr (.inl rfl)
    · exact .inr (.inr rfl)
    · exact .inl hkept

/-- A step is judged a fault exactly where its state is an overflow stop (R156). -/
theorem judgedStep_eq_fault_iff (s t : State) (addr : Address) (h : step s = .next t) :
    judgedStep s = .fault (.ipOverflow addr) ↔ t.run = .stopped .ipOverflow addr := by
  rw [judgedStep, h]
  cases hrun : t.run with
  | running => simp [hrun]
  | stopped cause addr' => cases cause <;> simp [hrun]

/-- A step whose state is no overflow stop is judged as it is (R156). -/
theorem judgedStep_eq_next (s t : State) (h : step s = .next t) (hno : ∀ addr, t.run ≠ .stopped .ipOverflow addr) :
    judgedStep s = .next t := by
  rw [judgedStep, h]
  cases hrun : t.run with
  | running => simp [hrun]
  | stopped cause addr =>
    cases cause with
    | fetchOutOfBounds => simp [hrun]
    | ipOverflow => exact absurd hrun (hno addr)

/-- Settles O29: the judgement reads the run state of the step's answer, which `step_run_fetchOutOfBounds_iff` and
`step_run_ipOverflow_iff` give. -/
theorem onlyIpOverflowIsJudgedAFault : Obligations.OnlyIpOverflowIsJudgedAFault := by
  intro s
  obtain ⟨t, ht⟩ := step_answers s
  refine ⟨t, ht, fun addr => judgedStep_eq_fault_iff s t addr ht, judgedStep_eq_next s t ht,
    fun hrst hrun hmem => ?ended, fun hrst hrun hmem htop hfault => ?fault⟩
  case ended =>
    have hstop := (step_run_fetchOutOfBounds_iff s t hrst hrun ht).mpr hmem
    exact ⟨judgedStep_eq_next s t ht (by simp [hstop]), by simp [State.ended, hstop]⟩
  case fault =>
    have hstop := (step_run_ipOverflow_iff s t hrst hrun ht).mpr ⟨hmem, htop, hfault⟩
    exact ⟨(judgedStep_eq_fault_iff s t s.ip ht).mpr hstop, by simp [State.ended, hstop]⟩

/-! ## The host's moves (R170 to R172) -/

/-- A load under `rst` of an image that fits (R171). -/
theorem hostMove_load (s : State) (image : List Byte) (hrst : s.rst = true) (hfits : s.params.fits image = true) :
    hostMove (.load image) s = .next (s.setMem (Memory.ofImage image)) := by
  rw [hostMove, if_pos hrst, if_pos hfits]

/-- A load with `rst` released is refused (R50; log 7). -/
theorem hostMove_load_of_released (s : State) (image : List Byte) (hrst : s.rst = false) :
    hostMove (.load image) s = .refused .memoryWriteWhileReleased := by
  rw [hostMove, if_neg (by simp [hrst])]

/-- A load of an image that does not fit is refused under `rst` (R7; log 7). -/
theorem hostMove_load_of_too_long (s : State) (image : List Byte) (hrst : s.rst = true)
    (hfits : ¬s.params.fits image = true) : hostMove (.load image) s = .refused .imageTooLong := by
  rw [hostMove, if_pos hrst, if_neg hfits]

/-- Everything a move of the host can do, guards included. -/
theorem hostMove_cases (m : HostMove) (s t : State) (h : hostMove m s = .next t) :
    (m = .assertRst ∧ t = s.applyReset.setRst true) ∨
    (m = .releaseRst ∧ t = s.setRst false) ∨
    (∃ image, m = .load image ∧ s.rst = true ∧ s.params.fits image = true ∧ t = s.setMem (Memory.ofImage image)) ∨
    (m = .step ∧ step s = .next t) := by
  cases m with
  | assertRst => exact .inl ⟨rfl, (Host.Outcome.next.inj h).symm⟩
  | releaseRst => exact .inr (.inl ⟨rfl, (Host.Outcome.next.inj h).symm⟩)
  | load image =>
    cases hrst : s.rst with
    | false => simp [hostMove_load_of_released s image hrst] at h
    | true =>
      by_cases hfits : s.params.fits image = true
      · rw [hostMove_load s image hrst hfits] at h
        exact .inr (.inr (.inl ⟨image, rfl, rfl, hfits, (Host.Outcome.next.inj h).symm⟩))
      · simp [hostMove_load_of_too_long s image hrst hfits] at h
  | step => exact .inr (.inr (.inr ⟨rfl, h⟩))

/-- Settles O5: release and load leave the run state, and a step leaves a stop under `rst` only. -/
theorem assertingRstResetsTheCore : Obligations.AssertingRstResetsTheCore := by
  refine ⟨fun s => rfl, fun m s t hstopped h hrun => ?leaves⟩
  case leaves =>
    obtain ⟨hm, -⟩ | ⟨-, rfl⟩ | ⟨image, -, -, -, rfl⟩ | ⟨hm, hstep⟩ := hostMove_cases m s t h
    · exact .inl hm
    · exact absurd hrun hstopped
    · exact absurd hrun hstopped
    · exact .inr ⟨hm, rst_of_step_leaves_stop s t hstopped hstep hrun⟩

/-- Settles O6: release writes `rst` only and load memory only, and a loaded memory reads as that of the booted core. -/
theorem hostChangesRegistersOnlyByReset : Obligations.HostChangesRegistersOnlyByReset := by
  refine ⟨fun m s t hassert hstep h => ?frame, fun s image hrst hfits => ⟨_, hostMove_load s image hrst hfits, hrst, ?loaded⟩,
    hostMove_load_of_released, fun s => ⟨_, rfl, rfl, s.setRst_readByte false⟩, fun s => rfl⟩
  case frame =>
    obtain ⟨hm, -⟩ | ⟨-, rfl⟩ | ⟨image, -, -, -, rfl⟩ | ⟨hm, -⟩ := hostMove_cases m s t h
    · exact absurd hm hassert
    · simp
    · simp
    · exact absurd hm hstep
  case loaded =>
    obtain ⟨-, -, -, -, -, -, -, himage, hfill⟩ := bootStateIsResetState s.params image hfits
    have hread : ∀ k, (s.setMem (Memory.ofImage image)).readByte k = (State.boot s.params image).readByte k :=
      State.readByte_congr rfl rfl
    exact ⟨fun k v hk => (hread k).trans (himage k v hk), fun k hle hlt => (hread k).trans (hfill k hle hlt)⟩

theorem State.Inv.setRst {s : State} (hs : s.Inv) (level : Bool) : (s.setRst level).Inv := { hs with }

/-- Loading an image that fits keeps the invariant, which speaks of memory's form and extent only (R34, R171). -/
theorem State.Inv.load {s : State} (hs : s.Inv) {image : List Byte} (hfits : s.params.fits image = true) :
    (s.setMem (Memory.ofImage image)).Inv :=
  have hboot := bootMeetsTheInvariant s.params image hs.params_legal hfits
  { hs with
    mem_canonical := hboot.mem_canonical
    mem_within := hboot.mem_within }

/-- Settles O50: reset, the level of `rst`, a load and a step each keep the invariant. -/
theorem hostMovesKeepTheInvariant : Obligations.HostMovesKeepTheInvariant := by
  intro m s t hs h
  obtain ⟨-, rfl⟩ | ⟨-, rfl⟩ | ⟨image, -, -, hfits, rfl⟩ | ⟨-, hstep⟩ := hostMove_cases m s t h
  · exact hs.applyReset.setRst true
  · exact hs.setRst false
  · exact hs.load hfits
  · exact stepKeepsTheInvariant s t hs hstep

end Sys2Proof.Machine
